-- ==== Sys2Proof/Word.lean ====
section
/-!
DEFINITION. The word types of the block (spec/00_scope.md R9): everything here is unsigned and wraps at its width.
-/

namespace Sys2Proof

/-- One byte of host memory, of the bridge, of the OSB or of the stream. -/
abbrev Byte := BitVec 8

/-- A 16-bit hash index (R233). -/
abbrev Half := BitVec 16

/-- A 32-bit register, host address or chunk value (R7 `REG_WIDTH`, `ADDR_WIDTH`; R230). -/
abbrev Word := BitVec 32

/-- A 64-bit counter or signature (R7 `COUNTER_WIDTH`; R42). -/
abbrev DWord := BitVec 64

end Sys2Proof
end

