-- ==== Sys2Proof/Config.lean ====
section
/-!
DEFINITION. The implementation parameters of the block, each at the value spec/00_scope.md R7 gives it
(assumption log 11: R8 would let a model leave some of them open).
-/

namespace Sys2Proof.Config

/-- `UNIT`: the chunk size and the bridge's capacity, in bytes. -/
def unit : Nat := 4

/-- `HASH_MULT`: the hash unit's multiplier. -/
def hashMult : Word := 0x9D6EF916#32

/-- `HASH_BITS`: the width of a hash value. -/
def hashBits : Nat := 16

/-- `TABLE_SIZE`: the entries of the hash table. -/
def tableSize : Nat := 65536

/-- `OSB_CAP`: the capacity of the output staging buffer. -/
def osbCap : Nat := 272

/-- `HEADER_SIZE`: the bytes of the stream header. -/
def headerSize : Nat := 8

/-- `FOOTER_SIZE`: the bytes of the stream footer. -/
def footerSize : Nat := 16

/-- Format version 1.0.0 (R352): the first three bytes of the stream header, as one little-endian number. -/
def formatVersion : BitVec 24 := 0x000001#24

/-- The size of the host's address space (R103). -/
def memorySize : Nat := 2 ^ 32

/-- The bytes of the register window (R32). -/
def windowSize : Nat := 64

end Sys2Proof.Config
end

