-- ==== Sys2Proof/Syntax.lean ====
section
/-!
DEFINITION. The instruction set (spec/00_scope.md R3): the host's command words and the wire tokens that the
decoder reads as its program. One constructor of `Instr` per row of spec/opcode_table.json.
-/

namespace Sys2Proof

/-- One constructor per row of spec/opcode_table.json, in the table's order. -/
inductive Instr where
  /-- INIT.ENC (R392): start an encode session. -/
  | initEnc (mode btype : Byte)
  /-- INIT.DEC (R393): start a decode session. -/
  | initDec
  /-- PROCESS (R402, R403): run the session until it stalls, fails or is done. -/
  | process (flush : Bool)
  /-- FINISH (R407): commit a complete stream. -/
  | finish
  /-- OP = 3, the reserved opcode (R408). -/
  | reserved
  /-- The stream header (R143): version bytes 0..2, mode byte 3, block-type byte 4, reserved bytes 5..7. -/
  | streamHeader (version : BitVec 24) (mode btype : Byte) (rsvd : BitVec 24)
  /-- The block header (R144): length `L`, the FINAL bit, reserved bits [31:17]. -/
  | blockHeader (len : Half) (final : Bool) (rsvd : BitVec 15)
  /-- A 32-flag signature word (R145, block type 0). -/
  | signatureW32 (flags : Word)
  /-- A 64-flag signature word (R145, block type 1). -/
  | signatureW64 (flags : DWord)
  /-- A hit: the 16-bit hash index (R146). -/
  | reference (h : Half)
  /-- A miss: the chunk's 4 bytes (R147). -/
  | literal (chunk : Word)
  /-- The tail of the final block (R148). -/
  | tail (bytes : List Byte)
  /-- The block trailer: the count of body bytes (R149). -/
  | blockTrailer (count : Word)
  /-- The stream footer (R153). -/
  | streamFooter (origLen encLen : DWord)
  deriving DecidableEq, Repr

/-- Where a word or a token is read: the CMD register, or a place in the stream. A token's kind and length are told
by the state that reads it, never by its own bits (R155). -/
inductive Context where
  | command
  | streamHeader
  | blockHeader
  | signatureW32
  | signatureW64
  | reference
  | literal
  /-- A tail of `t = L mod 4` bytes. -/
  | tail (t : Nat)
  | blockTrailer
  | streamFooter
  deriving DecidableEq, Repr

/-- The context in which an instruction is read. -/
def Instr.context : Instr → Context
  | .initEnc _ _ => .command
  | .initDec => .command
  | .process _ => .command
  | .finish => .command
  | .reserved => .command
  | .streamHeader _ _ _ _ => .streamHeader
  | .blockHeader _ _ _ => .blockHeader
  | .signatureW32 _ => .signatureW32
  | .signatureW64 _ => .signatureW64
  | .reference _ => .reference
  | .literal _ => .literal
  | .tail bytes => .tail bytes.length
  | .blockTrailer _ => .blockTrailer
  | .streamFooter _ _ => .streamFooter

/-- Is the instruction a host command (rather than a wire token)? -/
def Instr.isCommand (i : Instr) : Bool := i.context = .command

end Sys2Proof
end

