-- ==== Sys2Proof/WellFormed.lean ====
section
/-!
DEFINITION. Which instructions the encoding tables of spec/30_encoding.md admit. A record that fails a check is still
decoded, and its meaning raises the error the spec names (R354, R317).
-/

namespace Sys2Proof

/-- The fixed bits of each row of spec/opcode_table.json: version 1.0.0 and zero reserved bytes in a stream header
(R143), zero reserved bits in a block header (R144), at most 3 tail bytes (R148). Every other operand is free. -/
def WellFormed : Instr → Bool
  | .initEnc _ _ => true
  | .initDec => true
  | .process _ => true
  | .finish => true
  | .reserved => true
  | .streamHeader version _ _ rsvd => version = Config.formatVersion && rsvd = 0#24
  | .blockHeader _ _ rsvd => rsvd = 0#15
  | .signatureW32 _ => true
  | .signatureW64 _ => true
  | .reference _ => true
  | .literal _ => true
  | .tail bytes => bytes.length ≤ 3
  | .blockTrailer _ => true
  | .streamFooter _ _ => true

end Sys2Proof
end

