-- ==== Sys2Proof/Decode.lean ====
section
/-!
DEFINITION. The decoder of command words and wire tokens, and the encoder (spec/30_encoding.md). The decoder is total
on any bytes; it rejects by name a list shorter than the token, and a tail longer than 3 bytes.
-/

namespace Sys2Proof

/-- `LE(bs)` (R10): the number whose byte i is `bs[i]`. -/
def leNat : List Byte → Nat
  | [] => 0
  | b :: bs => b.toNat + 256 * leNat bs

/-- `bytesLE_n(v)` (R10): the n-byte list whose byte i is `v[8i+7:8i]`. -/
def bytesLE : Nat → Nat → List Byte
  | 0, _ => []
  | n + 1, v => BitVec.ofNat 8 v :: bytesLE n (v / 256)

/-- `LE(bs)` taken as a `w`-bit value. -/
def leWord (w : Nat) (bs : List Byte) : BitVec w := BitVec.ofNat w (leNat bs)

/-- The bytes a token takes in the stream (R155); a command word is 4 bytes (R150). -/
def Context.length : Context → Nat
  | .command => 4
  | .streamHeader => 8
  | .blockHeader => 4
  | .signatureW32 => 4
  | .signatureW64 => 8
  | .reference => 2
  | .literal => 4
  | .tail t => t
  | .blockTrailer => 4
  | .streamFooter => 16

/-- Why bytes are no instruction. -/
inductive DecodeError where
  /-- Fewer bytes than the context's token has. -/
  | short (ctx : Context)
  /-- A tail has at most 3 bytes (R148). -/
  | tailTooLong (t : Nat)
  deriving DecidableEq, Repr

/-- The command of a 32-bit CMD word (R150, R390). Total; the bits a row does not use are ignored (R151). -/
def decodeCommand (v : Word) : Instr :=
  let op := v.extractLsb' 0 2
  if op = 0#2 then
    if v.getLsbD 3 then .initDec else .initEnc (v.extractLsb' 8 8) (v.extractLsb' 16 8)
  else if op = 1#2 then .process (v.getLsbD 2)
  else if op = 2#2 then .finish
  else .reserved

/-- A stream header, its 8 bytes read as one little-endian number (R143). -/
def decodeStreamHeader (v : DWord) : Instr :=
  .streamHeader (v.extractLsb' 0 24) (v.extractLsb' 24 8) (v.extractLsb' 32 8) (v.extractLsb' 40 24)

/-- A block header word (R144). -/
def decodeBlockHeader (v : Word) : Instr :=
  .blockHeader (v.extractLsb' 0 16) (v.getLsbD 16) (v.extractLsb' 17 15)

/-- A stream footer, its 16 bytes read as one little-endian number (R153). -/
def decodeStreamFooter (v : BitVec 128) : Instr :=
  .streamFooter (v.extractLsb' 0 64) (v.extractLsb' 64 64)

/-- The instruction of exactly `ctx.length` bytes. -/
def decodeExact (ctx : Context) (bs : List Byte) : Instr :=
  match ctx with
  | .command => decodeCommand (leWord 32 bs)
  | .streamHeader => decodeStreamHeader (leWord 64 bs)
  | .blockHeader => decodeBlockHeader (leWord 32 bs)
  | .signatureW32 => .signatureW32 (leWord 32 bs)
  | .signatureW64 => .signatureW64 (leWord 64 bs)
  | .reference => .reference (leWord 16 bs)
  | .literal => .literal (leWord 32 bs)
  | .tail _ => .tail bs
  | .blockTrailer => .blockTrailer (leWord 32 bs)
  | .streamFooter => decodeStreamFooter (leWord 128 bs)

/-- A tail context names at most 3 bytes (`t = L mod 4`, R148). -/
def Context.tailFits : Context → Bool
  | .tail t => t ≤ 3
  | _ => true

/-- The decoder: the instruction at the front of `bs` in this context, and the bytes after it. -/
def decode (ctx : Context) (bs : List Byte) : Except DecodeError (Instr × List Byte) :=
  if ctx.tailFits then
    if bs.length < ctx.length then .error (.short ctx)
    else .ok (decodeExact ctx (bs.take ctx.length), bs.drop ctx.length)
  else .error (.tailTooLong ctx.length)

/-- The context in which `decodeTableWord` reads a row's bits. The stream's tokens carry no mark of their kind (R155),
so a bare word must be given one: 32 bits are a CMD word; 64 bits are a stream header where the row's fixed bits
match, and a 64-flag signature otherwise (DESIGN CHOICE, assumption log 9). -/
def tableContext (nbits w : Nat) : Option Context :=
  if nbits = 32 then some .command
  else if nbits = 64 then
    if w % 2 ^ 24 = 1 ∧ w / 2 ^ 40 % 2 ^ 24 = 0 then some .streamHeader else some .signatureW64
  else if nbits = 16 then some .reference
  else if nbits = 8 then some (.tail 1)
  else if nbits = 24 then some (.tail 3)
  else if nbits = 128 then some .streamFooter
  else none

/-- The instruction the decoder reads from a row's bits, laid out as the hardware stores them: little-endian, the
first byte at the lowest address (R10). -/
def decodeTableWord (nbits w : Nat) : Option Instr :=
  match tableContext nbits w with
  | none => none
  | some ctx =>
    match decode ctx (bytesLE (nbits / 8) w) with
    | .ok (i, _) => some i
    | .error _ => none

/-- The CMD word of a command (R150, R157); the bits the row does not use are 0. -/
def encodeCommand : Instr → Word
  | .initEnc mode btype => 0#8 ++ btype ++ mode ++ 0#8
  | .initDec => 0x00000008#32
  | .process flush => 0#29 ++ BitVec.ofBool flush ++ 1#2
  | .finish => 0x00000002#32
  | .reserved => 0x00000003#32
  | _ => 0#32

/-- The bytes of an instruction, in stream order: a command word little-endian, a token as R143 to R153 lay it out. -/
def encode : Instr → List Byte
  | .initEnc mode btype => bytesLE 4 (encodeCommand (.initEnc mode btype)).toNat
  | .initDec => bytesLE 4 (encodeCommand .initDec).toNat
  | .process flush => bytesLE 4 (encodeCommand (.process flush)).toNat
  | .finish => bytesLE 4 (encodeCommand .finish).toNat
  | .reserved => bytesLE 4 (encodeCommand .reserved).toNat
  | .streamHeader version mode btype rsvd => bytesLE 8 (rsvd ++ btype ++ mode ++ version).toNat
  | .blockHeader len final rsvd => bytesLE 4 (rsvd ++ BitVec.ofBool final ++ len).toNat
  | .signatureW32 flags => bytesLE 4 flags.toNat
  | .signatureW64 flags => bytesLE 8 flags.toNat
  | .reference h => bytesLE 2 h.toNat
  | .literal chunk => bytesLE 4 chunk.toNat
  | .tail bytes => bytes
  | .blockTrailer count => bytesLE 4 count.toNat
  | .streamFooter origLen encLen => bytesLE 8 origLen.toNat ++ bytesLE 8 encLen.toNat

end Sys2Proof
end

