-- ==== Sys2Proof/Machine/State.lean ====
section
/-!
DEFINITION. The state of the block and of the host memory it masters (spec/10_state.md), as plain data, and the state
after a hardware reset (spec/70_reset_and_hazards.md R471).
-/

namespace Sys2Proof.Machine

/-- `s.role` (R45). -/
inductive Role where
  | encode
  | decode
  deriving DecidableEq, Repr

/-- `s.mode` (R45): a session's mode is never 2 or more (R141). -/
inductive Mode where
  | copy
  | chameleon
  deriving DecidableEq, Repr

/-- `s.btype` (R45, R142): block type 0 has 32 flags a signature, block type 1 has 64. -/
inductive BlockType where
  | bt0
  | bt1
  deriving DecidableEq, Repr

/-- The stream stage `s.stage` (R50), values 0 to 3 in this order. -/
inductive Stage where
  /-- 0, READ_HEADER / WRITE_HEADER. -/
  | header
  /-- 1, READ_BLOCKS / WRITE_BLOCKS. -/
  | blocks
  /-- 2, READ_FOOTER / WRITE_FOOTER. -/
  | footer
  /-- 3, FINISHED. -/
  | finished
  deriving DecidableEq, Repr

/-- The kernel stage `s.ks` (R51). -/
inductive KStage where
  /-- 0, PREPARE_NEW_BLOCK. -/
  | prepare
  /-- 1, CHECK_SIGNATURE_STATE. -/
  | checkSig
  /-- 2, READ_CHUNK. -/
  | readChunk
  /-- 3, COPY_BYTES. -/
  | copyBytes
  /-- 4, READ_TAIL (decoder only). -/
  | readTail
  /-- 5, BLOCK_TRAILER (decoder only). -/
  | trailer
  /-- An unassigned value `6 + v` (R51, R436). -/
  | unassigned (v : Fin 10)
  deriving DecidableEq, Repr

/-- `s.result` (R47): the result code of the last command. -/
inductive Result where
  /-- 0 NONE: no command since reset. -/
  | none
  /-- 1 READY. -/
  | ready
  /-- 2 STALL_ON_INPUT. -/
  | stallIn
  /-- 3 STALL_ON_OUTPUT. -/
  | stallOut
  /-- 4 ERROR. -/
  | error
  deriving DecidableEq, Repr

/-- `s.err` (R48): the error codes of R430. -/
inductive ErrCode where
  /-- 0 NONE. -/
  | none
  /-- 1 MALFORMED_HEADER. -/
  | malformedHeader
  /-- 2 UNSUPPORTED_MODE. -/
  | unsupportedMode
  /-- 3 INVALID_STATE_TRANSITION. -/
  | invalidStateTransition
  /-- 4 TRUNCATED_STREAM. -/
  | truncatedStream
  deriving DecidableEq, Repr

/-- The bridge's 4 bytes of scratch `s.scr` (R41). -/
structure Scratch where
  b0 : Byte
  b1 : Byte
  b2 : Byte
  b3 : Byte
  deriving DecidableEq, Repr

/-- One access of the host, the block's only outside agent (R6): to the register space (R32, R105), to its own memory
(R103, R476), or to the platform's reset input (R470). MODEL (assumption log 3). -/
inductive HostAccess where
  /-- A register write of `width` bytes at an address of the register space, where the window stands at REG_BASE. -/
  | regWrite (width : Nat) (addr : Word) (value : Word)
  /-- A register read of `width` bytes at an address of the register space. -/
  | regRead (width : Nat) (addr : Word)
  /-- The host stores a byte in its memory. -/
  | memWrite (addr : Word) (value : Byte)
  /-- The host loads a byte of its memory. -/
  | memRead (addr : Word)
  /-- The platform asserts and releases the reset input. -/
  | hardwareReset
  deriving DecidableEq, Repr

/-- Why the machine stops with a fault. -/
inductive Fault where
  /-- Raised by PROCESS if its loop outruns the bound of R405. No state does (assumption log 6). Safe: the model stops
  where the hardware goes on. -/
  | loopBound
  deriving DecidableEq, Repr

/-- Why the model gives no next state. -/
inductive Refusal where
  /-- Raised by `exec` for an instruction that has no meaning yet. Safe: the model stops. No arm raises it. -/
  | notModelled (mnemonic : String)
  /-- Raised by a register access that is not an aligned 32-bit access (R111, R478, I21). Safe: the spec says a model
  refuses it. -/
  | registerAccess
  /-- Raised by a register access at an offset of 64 or more from REG_BASE, outside the block (R39, R106). Safe: what
  happens there is the platform's. -/
  | outsideWindow
  /-- Raised by a PROCESS that reaches, through a view, an address with no memory behind it, and by a host access to one
  (R106, R476, I23). Safe: the spec says a model refuses it. -/
  | noMemory
  /-- Raised by every PROCESS issued with overlapping input and output regions (R477, I22). Safe: the spec says a model
  refuses it. -/
  | overlappingViews
  deriving DecidableEq, Repr

/-- Host memory (R103): (address, byte) pairs in one canonical form, addresses strictly rising and no byte equal to
what an unlisted address reads as (`State.readByte`, assumption log 1). -/
abbrev Memory := List Host.Cell

/-- The hash table `HT` (R40): (index, entry) pairs in the same canonical form; an unlisted entry is 0. -/
abbrev HashTable := List (Nat × Word)

/-- One region of the platform's memory map: `size` bytes from host address `base` on, wrapping at 2^32. -/
structure Region where
  base : Word
  size : Nat
  deriving DecidableEq, Repr

/-- The whole machine. Each field's docstring names the rule that gives it. -/
structure State where
  /-- IN_BASE (R35). -/
  inBase : Word
  /-- IN_POS (R35). -/
  inPos : Word
  /-- IN_CAP (R35). -/
  inCap : Word
  /-- OUT_BASE (R36). -/
  outBase : Word
  /-- OUT_POS (R36). -/
  outPos : Word
  /-- OUT_CAP (R36). -/
  outCap : Word
  /-- `s.result` (R47). -/
  result : Result
  /-- `s.err` (R48). -/
  err : ErrCode
  /-- `s.active` (R45). -/
  active : Bool
  /-- `s.role` (R45). -/
  role : Role
  /-- `s.mode` (R45). -/
  mode : Mode
  /-- `s.btype` (R45, R46). -/
  btype : BlockType
  /-- `s.stage` (R50). -/
  stage : Stage
  /-- `s.ks` (R51). -/
  ks : KStage
  /-- `s.fin` (R45): the footer is complete. -/
  fin : Bool
  /-- `s.flushed` (R45): the encoder has closed its final block. -/
  flushed : Bool
  /-- `s.total_read` (R356). -/
  totalRead : DWord
  /-- `s.total_written` (R356). -/
  totalWritten : DWord
  /-- The output staging buffer `s.osb` (R44), front first. -/
  osb : List Byte
  /-- The bridge scratch `s.scr` (R41). -/
  scr : Scratch
  /-- `s.k` (R41): the bytes staged in the scratch. -/
  k : Nat
  /-- `s.blen` (R42, R43): the open block's length; in a decoder, the declared length L. -/
  blen : Nat
  /-- `s.sig` (R42, R43): the signature accumulator; in a decoder, the signature word read. -/
  sig : DWord
  /-- `s.shift` (R42): the flags placed so far. -/
  shift : Nat
  /-- `s.body` (R42): the payload of the open block. -/
  body : List Byte
  /-- `s.bfinal` (R43): the block's FINAL bit. -/
  bfinal : Bool
  /-- `s.n` (R43): the block's chunk count. -/
  n : Nat
  /-- `s.t` (R43): the block's tail length. -/
  t : Nat
  /-- `s.cidx` (R43): the chunks decoded so far. -/
  cidx : Nat
  /-- `s.crem` (R43): the COPY bytes still to read. -/
  crem : Nat
  /-- `s.dcnt` (R43): the body bytes read in this block. -/
  dcnt : Word
  /-- `s.acc` (R43, R49): the record being gathered 4 bytes at a time. -/
  acc : List Byte
  /-- `s.foot_start` (R43): the stream bytes up to and including the final block's trailer. -/
  footStart : DWord
  /-- `HT` (R40). -/
  ht : HashTable
  /-- Host memory (R103). -/
  mem : Memory
  /-- REG_BASE (R106, I25), the platform's: where the register window stands in the register space (assumption log
  10). -/
  regBase : Word
  /-- HOST_MEMORY_MAP (R106, I26), the platform's: the regions of host addresses that hold memory (assumption log 10). -/
  memMap : List Region
  /-- MODEL's own: the host's accesses still to come, the next one first (assumption log 3). -/
  host : List HostAccess
  /-- MODEL's own: the value the host's last read returned, zero-extended to 32 bits (assumption log 3). -/
  readData : Word
  deriving DecidableEq, Repr

/-- The machine after a hardware reset (R471). The view registers, RESULT, ERR, ACTIVE, the counters and the OSB are as
R471 states. R471 leaves every other session field and HT unspecified ("A model may give the unspecified fields any
value, or none"); here each is its zero value (DESIGN CHOICE, unsafe, assumption log 2). Memory lists nothing
(assumption log 1), no host access is pending (assumption log 3), and the platform has its register window at 0 and
memory at every address (assumption log 10). -/
def State.reset : State where
  inBase := 0#32
  inPos := 0#32
  inCap := 0#32
  outBase := 0#32
  outPos := 0#32
  outCap := 0#32
  result := .none
  err := .none
  active := false
  role := .encode
  mode := .copy
  btype := .bt0
  stage := .header
  ks := .prepare
  fin := false
  flushed := false
  totalRead := 0#64
  totalWritten := 0#64
  osb := []
  scr := ⟨0#8, 0#8, 0#8, 0#8⟩
  k := 0
  blen := 0
  sig := 0#64
  shift := 0
  body := []
  bfinal := false
  n := 0
  t := 0
  cidx := 0
  crem := 0
  dcnt := 0#32
  acc := []
  footStart := 0#64
  ht := []
  mem := []
  regBase := 0#32
  memMap := [⟨0#32, Config.memorySize⟩]
  host := []
  readData := 0#32

end Sys2Proof.Machine
end

