-- ==== Sys2Proof/Machine/Ops.lean ====
section
/-!
DEFINITION. The named operations over memory, the hash table, the views, the bridge and the OSB (spec/20_memory.md,
spec/40_stream_bridge.md), raising an error (spec/60_exceptions.md), session reset and start (R391) and hardware reset
(R470).
-/

namespace Sys2Proof.Machine

/-! ## Sparse maps: one canonical form for host memory and for the hash table -/

/-- The value at key `a`; a key that is not listed holds 0. -/
def sparseGet {w : Nat} : List (Nat × BitVec w) → Nat → BitVec w
  | [], _ => 0#w
  | (key, v) :: rest, a => if a = key then v else sparseGet rest a

/-- Store `v` at key `a`, keeping the keys rising; storing 0 removes the entry. -/
def sparseSet {w : Nat} : List (Nat × BitVec w) → Nat → BitVec w → List (Nat × BitVec w)
  | [], a, v => if v = 0#w then [] else [(a, v)]
  | (key, u) :: rest, a, v =>
    if a < key then (if v = 0#w then (key, u) :: rest else (a, v) :: (key, u) :: rest)
    else if a = key then (if v = 0#w then rest else (a, v) :: rest)
    else (key, u) :: sparseSet rest a v

/-- The canonical form from key `lo` on: keys strictly rising, below `bound`, and no entry 0. -/
def sparseWf {w : Nat} (bound : Nat) : Nat → List (Nat × BitVec w) → Bool
  | _, [] => true
  | lo, (key, v) :: rest => lo ≤ key && key < bound && v ≠ 0#w && sparseWf bound (key + 1) rest

/-- The canonical form of host memory. -/
def Memory.wf (m : Memory) : Bool := sparseWf Config.memorySize 0 m

/-- The canonical form of the hash table. -/
def HashTable.wf (h : HashTable) : Bool := sparseWf Config.tableSize 0 h

/-! ## Host memory and the hash table -/

/-- `MemRead(a, 1)` (R12). A byte that nothing has written reads 0x00 (DESIGN CHOICE, assumption log 1). -/
def State.readByte (s : State) (a : Word) : Byte := sparseGet s.mem a.toNat

/-- `MemWrite(a, 1, v)` (R12). -/
def State.writeByte (s : State) (a : Word) (v : Byte) : State :=
  { s with mem := sparseSet s.mem a.toNat v }

/-- `HT[h]` (R40). -/
def State.entry (s : State) (h : Half) : Word := sparseGet s.ht h.toNat

/-- `HT[h] <- v` (R40). -/
def State.setEntry (s : State) (h : Half) (v : Word) : State :=
  { s with ht := sparseSet s.ht h.toNat v }

/-! ## Views (R100 to R102) -/

/-- The bytes available in a view (R101): `cap - pos` if `pos < cap`, and 0 otherwise, which is what subtraction of
natural numbers gives. -/
def avail (pos cap : Word) : Nat := cap.toNat - pos.toNat

/-- The host address of offset `p` of a view (R102); it wraps at 2^32. -/
def viewAddr (base p : Word) : Word := base + p

/-- The bytes available in the input view. -/
def State.inAvail (s : State) : Nat := avail s.inPos s.inCap

/-- The bytes available in the output view. -/
def State.outAvail (s : State) : Nat := avail s.outPos s.outCap

/-- Do the `la` bytes from address `a` and the `lb` bytes from address `b` (both mod 2^32) share an address? Two arcs of
the address circle meet exactly when one of them holds the other's first byte. -/
def regionsOverlap (a : Word) (la : Nat) (b : Word) (lb : Nat) : Bool :=
  0 < la && 0 < lb && ((b - a).toNat < la || (a - b).toNat < lb)

/-- R477: the input view's unconsumed region meets the output view's free region. -/
def State.viewsOverlap (s : State) : Bool :=
  regionsOverlap (viewAddr s.inBase s.inPos) s.inAvail (viewAddr s.outBase s.outPos) s.outAvail

/-! ## The platform's memory map (R106) -/

/-- Does the platform have memory at this host address? -/
def State.backed (s : State) (a : Word) : Bool := s.memMap.any fun r => (a - r.base).toNat < r.size

/-- Do the `count` bytes of a view from offset `pos` on all have memory behind them? -/
def State.viewBacked (s : State) (base pos : Word) (count : Nat) : Bool :=
  (List.range count).all fun p => s.backed (viewAddr base (pos + BitVec.ofNat 32 p))

/-- The bytes of the two views that a PROCESS from `s` to `t` reached all have memory behind them: it consumed the
input offsets from `s.inPos` to `t.inPos` and wrote the output offsets from `s.outPos` to `t.outPos` (R201, R202). -/
def State.movedBytesBacked (s t : State) : Bool :=
  s.viewBacked s.inBase s.inPos (t.inPos - s.inPos).toNat &&
    s.viewBacked s.outBase s.outPos (t.outPos - s.outPos).toNat

/-- I23: an outcome that reached an address with no memory behind it is refused. -/
def onBackedMemory (s : State) (o : Host.Outcome State Fault Refusal) : Host.Outcome State Fault Refusal :=
  match o with
  | .next t => if s.movedBytesBacked t then .next t else .refused .noMemory
  | .fault f => .fault f
  | .refused r => .refused r

/-! ## Bytes through the views -/

/-- InByte (R201): take the next byte of the input view. -/
def inByte (s : State) : Byte × State :=
  (s.readByte (viewAddr s.inBase s.inPos), { s with inPos := s.inPos + 1#32, totalRead := s.totalRead + 1#64 })

/-- OutByte (R202): put one byte in the output view. -/
def outByte (v : Byte) (s : State) : State :=
  { s.writeByte (viewAddr s.outBase s.outPos) v with outPos := s.outPos + 1#32, totalWritten := s.totalWritten + 1#64 }

/-! ## The output staging buffer -/

/-- The loop of Drain over the bytes staged. -/
def drainBytes : List Byte → State → State
  | [], s => { s with osb := [] }
  | b :: rest, s => if s.outAvail = 0 then { s with osb := b :: rest } else drainBytes rest (outByte b s)

/-- Drain (R203): move staged bytes to the output view until the OSB is empty or the view is full. It is blocked
exactly when the OSB is not empty afterwards. -/
def drain (s : State) : State := drainBytes s.osb s

/-- Emit (R279): append decoded bytes to the OSB. -/
def emit (bytes : List Byte) (s : State) : State := { s with osb := s.osb ++ bytes }

/-! ## The stream bridge (R200 to R207) -/

/-- The scratch bytes in order. -/
def Scratch.bytes (c : Scratch) : List Byte := [c.b0, c.b1, c.b2, c.b3]

/-- `s.scr[i] <- v`; there are four bytes, and an index above 3 (which no rule uses) stores nothing. -/
def Scratch.put (c : Scratch) (i : Nat) (v : Byte) : Scratch :=
  match i with
  | 0 => { c with b0 := v }
  | 1 => { c with b1 := v }
  | 2 => { c with b2 := v }
  | 3 => { c with b3 := v }
  | _ => c

/-- `InByte() repeated count times`: the bytes in stream order. -/
def takeBytes : Nat → State → List Byte × State
  | 0, s => ([], s)
  | count + 1, s =>
    let (b, s₁) := inByte s
    let (bs, s₂) := takeBytes count s₁
    (b :: bs, s₂)

/-- One turn of the staging loop of R204: `s.scr[s.k] <- InByte(); s.k <- s.k + 1`. -/
def stageByte (s : State) : State :=
  let (b, s₁) := inByte s
  { s₁ with scr := s₁.scr.put s₁.k b, k := s₁.k + 1 }

/-- `repeat count times` of the staging loop. -/
def stageBytes : Nat → State → State
  | 0, s => s
  | count + 1, s => stageBytes count (stageByte s)

/-- What `Read(n)` answers. -/
inductive ReadResult where
  | ok (bytes : List Byte) (s : State)
  | insufficient (s : State)
  deriving DecidableEq, Repr

/-- `Read(n)` (R204): n contiguous bytes if the bridge and the view hold them; otherwise the view is staged. -/
def readUnit (n : Nat) (s : State) : ReadResult :=
  if n ≤ s.k + s.inAvail then
    let (bs, s₁) := takeBytes (n - s.k) s
    .ok (s.scr.bytes.take s.k ++ bs) { s₁ with k := 0 }
  else .insufficient (stageBytes s.inAvail s)

/-- TakeTail (R205): hand on the staged bytes. -/
def takeTail (s : State) : List Byte × State := (s.scr.bytes.take s.k, { s with k := 0 })

/-! ## Errors (R432, R434): the block's only "exception entry" (R439) -/

/-- `raise Error(code)` (R432, R439): ERR and RESULT are written and nothing else changes. There is no return from an
error (R440); INIT starts afresh. -/
def raiseError (code : ErrCode) (s : State) : State := { s with err := code, result := .error }

/-- NoSession (R400): what PROCESS, FINISH and the reserved opcode do while no session exists. -/
def noSession (s : State) : State := raiseError .invalidStateTransition s

/-- How a micro-step ends (R13): the loop goes on, the command stalls on input, or an error has been raised in the
state given. `done` is the loop's own (R403). The last two pass on a stop of a token's meaning. -/
inductive MicroOutcome where
  | cont (s : State)
  | stallInput (s : State)
  | raised (s : State)
  | stopped (f : Fault)
  | refused (r : Refusal)
  deriving DecidableEq, Repr

/-- The end of a micro-step that ran a token's meaning. PROCESS runs only while ERR is NONE (R402), so ERR is set
afterwards exactly when the token raised an error. -/
def afterToken : Host.Outcome State Fault Refusal → MicroOutcome
  | .next s => if s.err = .none then .cont s else .raised s
  | .fault f => .stopped f
  | .refused r => .refused r

/-- DRead(n, code) (R206): a decoder read; `use` is what the step does with the bytes. -/
def dread (n : Nat) (code : ErrCode) (flush : Bool) (s : State) (use : List Byte → State → MicroOutcome) :
    MicroOutcome :=
  match readUnit n s with
  | .ok bytes s₁ => use bytes s₁
  | .insufficient s₁ => if flush then .raised (raiseError code s₁) else .stallInput s₁

/-! ## Session reset, session start, hardware reset -/

/-- SessionReset (R391, first part): discard any session. -/
def sessionReset (s : State) : State :=
  { s with active := false, err := .none, totalRead := 0#64, totalWritten := 0#64, osb := [] }

/-- SessionStart (R391, second part): the start of a session whose role, mode and block type are set. R391 writes "every
session field" and names no value for the block registers; here each is cleared, as R52 (4) needs of `sig` and `shift`
(DEDUCED, assumption log 7). -/
def sessionStart (s : State) : State :=
  { s with
    stage := .header, ks := .prepare, fin := false, flushed := false
    scr := ⟨0#8, 0#8, 0#8, 0#8⟩, k := 0, acc := [], ht := [], active := true, result := .ready
    blen := 0, sig := 0#64, shift := 0, body := [], bfinal := false, n := 0, t := 0, cidx := 0, crem := 0
    dcnt := 0#32, footStart := 0#64 }

/-- Hardware reset (R470, R471): every register and session field as after reset; no memory is touched. Commands are
atomic (R401), so none is running when the reset input is asserted. The platform's address map, the host's own pending
accesses and the value it last read are not the block's and stay. -/
def hardwareReset (s : State) : State :=
  { State.reset with
    mem := s.mem, regBase := s.regBase, memMap := s.memMap, host := s.host, readData := s.readData }

end Sys2Proof.Machine
end

