-- ==== Sys2Proof/Machine/Operands.lean ====
section
/-!
DEFINITION. The operand forms: the selector bytes (spec/30_encoding.md R140, R142), the block geometry they choose
(R46, R310), the chunk and its hash (R230, R233), and the records the encoder writes (R143 to R153).
-/

namespace Sys2Proof.Machine

/-- The compression-mode selector (R140): 0 COPY, 1 CHAMELEON, every other value rejected (R141). -/
def Mode.ofByte (b : Byte) : Option Mode :=
  if b = 0#8 then some .copy else if b = 1#8 then some .chameleon else none

/-- The mode byte of the stream header (R143) and the MODE bit of STATUS (R34). -/
def Mode.code : Mode → Byte
  | .copy => 0#8
  | .chameleon => 1#8

/-- The block-type selector (R142): 0 or 1, every other value rejected. -/
def BlockType.ofByte (b : Byte) : Option BlockType :=
  if b = 0#8 then some .bt0 else if b = 1#8 then some .bt1 else none

/-- The block-type byte of the stream header (R143) and the BTYPE bit of STATUS (R34). -/
def BlockType.code : BlockType → Byte
  | .bt0 => 0#8
  | .bt1 => 1#8

/-- `W` (R7, R46): the flags of a signature word. -/
def BlockType.flagCount : BlockType → Nat
  | .bt0 => 32
  | .bt1 => 64

/-- `W` of the session. -/
def State.groupWidth (s : State) : Nat := s.btype.flagCount

/-- `SIGB = W/8` (R7, R46): the bytes of a signature word. -/
def State.sigBytes (s : State) : Nat := s.groupWidth / 8

/-- `BLK = 4*W` (R7, R46): the largest input length of a block. -/
def State.blockBytes (s : State) : Nat := 4 * s.groupWidth

/-- The chunk value (R230): four stream bytes as a little-endian word. -/
def chunkOf (bytes : List Byte) : Word := leWord 32 bytes

/-- The hash unit (R233): `((c * HASH_MULT) mod 2^32) >> 16`. -/
def chunkHash (c : Word) : Half := (c * Config.hashMult).extractLsb' (32 - Config.hashBits) 16

/-- A chunk's 4 bytes (R109): `bytesLE_4(c)`. -/
def chunkBytes (c : Word) : List Byte := bytesLE 4 c.toNat

/-- The block header word of the open block (R144, R316): `s.blen | (final << 16)`. -/
def State.blockHeaderWord (s : State) (final : Bool) : Word :=
  BitVec.ofNat 32 s.blen ||| (if final then 0x00010000#32 else 0#32)

/-- The body of the open block (R149, R316): the signature word and the payload, or the COPY bytes. -/
def State.blockBody (s : State) : List Byte :=
  match s.mode with
  | .chameleon => bytesLE s.sigBytes s.sig.toNat ++ s.body
  | .copy => s.body

/-- The stream header the encoder writes (R143, R350). -/
def State.headerBytes (s : State) : List Byte := [1#8, 0#8, 0#8, s.mode.code, s.btype.code, 0#8, 0#8, 0#8]

/-- The stream footer the encoder writes (R153, R351). -/
def State.footerBytes (s : State) : List Byte := bytesLE 8 s.totalRead.toNat ++ bytesLE 8 s.totalWritten.toNat

end Sys2Proof.Machine
end

