-- ==== Sys2Proof/Machine/Flags.lean ====
section
/-!
DEFINITION. The STATUS fields and every flag computation of the block (spec/10_state.md R34, R53), PEND (R38), and the
signature flags: the matcher (R231) and the bit-packer (R232).
-/

namespace Sys2Proof.Machine

/-- STATUS.RESULT (R34). -/
def Result.code : Result → BitVec 3
  | .none => 0#3
  | .ready => 1#3
  | .stallIn => 2#3
  | .stallOut => 3#3
  | .error => 4#3

/-- STATUS.ERR (R34, R430). -/
def ErrCode.code : ErrCode → BitVec 4
  | .none => 0#4
  | .malformedHeader => 1#4
  | .unsupportedMode => 2#4
  | .invalidStateTransition => 3#4
  | .truncatedStream => 4#4

/-- STATUS.ROLE (R34). -/
def Role.code : Role → BitVec 1
  | .encode => 0#1
  | .decode => 1#1

/-- STATUS.STAGE (R34, R50). -/
def Stage.code : Stage → BitVec 2
  | .header => 0#2
  | .blocks => 1#2
  | .footer => 2#2
  | .finished => 3#2

/-- STATUS.KSTAGE (R34, R51). -/
def KStage.code : KStage → BitVec 4
  | .prepare => 0#4
  | .checkSig => 1#4
  | .readChunk => 2#4
  | .copyBytes => 3#4
  | .readTail => 4#4
  | .trailer => 5#4
  | .unassigned v => BitVec.ofNat 4 (6 + v)

/-- STATUS bits [27:12] of a live session, in order from bit 27: KSTAGE, two zeros, BRIDGE_K, a zero, BTYPE, MODE,
FLUSHED, FIN, STAGE, ROLE (R34). -/
def State.sessionFields (s : State) : BitVec 16 :=
  s.ks.code ++ 0#2 ++ BitVec.ofNat 2 s.k ++ 0#1 ++ s.btype.code.extractLsb' 0 1 ++ s.mode.code.extractLsb' 0 1 ++
    BitVec.ofBool s.flushed ++ BitVec.ofBool s.fin ++ s.stage.code ++ s.role.code

/-- STATUS (R34). Bits [27:12] read 0 while ACTIVE = 0. BUSY [3] reads 0: a command is one atomic transition (R401,
assumption log 4). -/
def State.statusWord (s : State) : Word :=
  0#4 ++ (if s.active then s.sessionFields else 0#16) ++ s.err.code ++ 0#3 ++ BitVec.ofBool s.active ++ 0#1 ++
    s.result.code

/-- PEND (R38): `len(s.osb)` in bits [8:0], bits [31:9] zero. -/
def State.pendWord (s : State) : Word := 0#23 ++ BitVec.ofNat 9 s.osb.length

/-- The chunk matcher (R231): is chunk `c`, with hash `h`, a hit? -/
def State.isHit (s : State) (c : Word) (h : Half) : Bool := s.entry h = c

/-- The signature bit-packer (R232). -/
def pack (flag : Bool) (s : State) : State :=
  { s with sig := s.sig ||| ((BitVec.ofBool flag).setWidth 64 <<< s.shift), shift := s.shift + 1 }

/-- The flag of the decoder's next chunk (R275): `s.sig[s.cidx]`. -/
def State.chunkFlag (s : State) : Bool := s.sig.getLsbD s.cidx

end Sys2Proof.Machine
end

