-- ==== Sys2Proof/Machine/Tokens.lean ====
section
/-!
DEFINITION. The meanings of the wire tokens, the decoder's instructions (spec/42, 43, 44). Each is what the decoder's
micro-step does once the token's last byte has been read: the bridge read itself, with IN_POS and TOTAL_READ, is the
fetch (Machine/DecodeKernel.lean, assumption log 8). A meaning is total: which token is due is the dispatch's concern
(R404).
-/

namespace Sys2Proof.Machine

/-- STREAM_HEADER: CheckHeader in the order of R354 (version, mode, block type, reserved bytes), then the move to the
blocks (R353). -/
def execStreamHeader (version : BitVec 24) (mode btype : Byte) (rsvd : BitVec 24) (s : State) :
    Host.Outcome State Fault Refusal :=
  let s := { s with acc := [] }
  if version ≠ Config.formatVersion then .next (raiseError .malformedHeader s)
  else
    match Mode.ofByte mode with
    | none => .next (raiseError .unsupportedMode s)
    | some m =>
      match BlockType.ofByte btype with
      | none => .next (raiseError .malformedHeader s)
      | some bt =>
        if rsvd ≠ 0#24 then .next (raiseError .malformedHeader s)
        else .next { s with mode := m, btype := bt, stage := .blocks, ks := .prepare }

/-- BLOCK_HEADER: the checks and the block's registers (R317). -/
def execBlockHeader (len : Half) (final : Bool) (rsvd : BitVec 15) (s : State) :
    Host.Outcome State Fault Refusal :=
  let l := len.toNat
  if rsvd ≠ 0#15 ∨ s.blockBytes < l ∨ (final = false ∧ l ≠ s.blockBytes) then
    .next (raiseError .malformedHeader s)
  else
    let s := { s with blen := l, bfinal := final, dcnt := 0#32 }
    match s.mode with
    | .chameleon => .next { s with n := l / 4, t := l % 4, cidx := 0, acc := [], ks := .checkSig }
    | .copy => .next { s with crem := l, ks := .copyBytes }

/-- A signature word is complete (R274): its last 4 bytes are counted, the word is kept, and the chunks follow. -/
def takeSignature (flags : DWord) (s : State) : State :=
  { s with dcnt := s.dcnt + 4#32, sig := flags, acc := [], ks := .readChunk }

/-- SIGNATURE.W32 (R274): zero-extended into `s.sig`. -/
def execSignatureW32 (flags : Word) (s : State) : Host.Outcome State Fault Refusal :=
  .next (takeSignature (flags.setWidth 64) s)

/-- SIGNATURE.W64 (R274): complete with its high half. The low half's 4 bytes were counted in `s.dcnt` when that half
was gathered (assumption log 8). -/
def execSignatureW64 (flags : DWord) (s : State) : Host.Outcome State Fault Refusal :=
  .next (takeSignature flags s)

/-- The end of a chunk token (R275): emit the chunk's 4 bytes and go on to the next flag. -/
def finishChunk (c : Word) (s : State) : State :=
  { emit (chunkBytes c) s with cidx := s.cidx + 1 }

/-- REFERENCE (R278, R275): output the bucket's value; the table is not written, and every index is valid (R272). -/
def execReference (h : Half) (s : State) : Host.Outcome State Fault Refusal :=
  .next (finishChunk (s.entry h) { s with dcnt := s.dcnt + 2#32 })

/-- LITERAL (R276, R275): write the chunk into its bucket and output it. -/
def execLiteral (c : Word) (s : State) : Host.Outcome State Fault Refusal :=
  .next (finishChunk c { s.setEntry (chunkHash c) c with dcnt := s.dcnt + 4#32 })

/-- TAIL (R277): the bytes are output as they are, not hashed; the trailer follows. With no byte it is the `t = 0` case,
which only moves to the trailer. -/
def execTail (bytes : List Byte) (s : State) : Host.Outcome State Fault Refusal :=
  .next { emit bytes s with dcnt := s.dcnt + BitVec.ofNat 32 bytes.length, ks := .trailer }

/-- BLOCK_TRAILER (R320): the count must be the body bytes read; the final block leads to the footer. -/
def execBlockTrailer (count : Word) (s : State) : Host.Outcome State Fault Refusal :=
  if count ≠ s.dcnt then .next (raiseError .malformedHeader s)
  else if s.bfinal then .next { s with stage := .footer, footStart := s.totalRead, acc := [] }
  else .next { s with ks := .prepare }

/-- STREAM_FOOTER (R355): both counts are checked, and the session's footer is complete. -/
def execStreamFooter (origLen encLen : DWord) (s : State) : Host.Outcome State Fault Refusal :=
  let s := { s with acc := [] }
  if origLen ≠ s.totalWritten ∨ encLen ≠ s.footStart then .next (raiseError .malformedHeader s)
  else .next { s with fin := true }

end Sys2Proof.Machine
end

