-- ==== Sys2Proof/Machine/DecodeKernel.lean ====
section
/-!
DEFINITION. The decoder's micro-steps (spec/42_chameleon_decode.md, R317, R319, R320, R353, R355): the fetch of each
wire token through the bridge, then the token's meaning. The token's fields are read by the decoder's own functions
of Sys2Proof/Decode.lean.
-/

namespace Sys2Proof.Machine

/-- Run the meaning of a decoded wire token. A host command is never decoded from the stream (R155): a context of the
stream gives a token (`decodeExact_stream_isToken`), so the command arms are never taken. -/
def runToken (i : Instr) (s : State) : MicroOutcome :=
  match i with
  | .streamHeader version mode btype rsvd => afterToken (execStreamHeader version mode btype rsvd s)
  | .blockHeader len final rsvd => afterToken (execBlockHeader len final rsvd s)
  | .signatureW32 flags => afterToken (execSignatureW32 flags s)
  | .signatureW64 flags => afterToken (execSignatureW64 flags s)
  | .reference h => afterToken (execReference h s)
  | .literal chunk => afterToken (execLiteral chunk s)
  | .tail bytes => afterToken (execTail bytes s)
  | .blockTrailer count => afterToken (execBlockTrailer count s)
  | .streamFooter origLen encLen => afterToken (execStreamFooter origLen encLen s)
  | .initEnc _ _ => .raised (raiseError .invalidStateTransition s)
  | .initDec => .raised (raiseError .invalidStateTransition s)
  | .process _ => .raised (raiseError .invalidStateTransition s)
  | .finish => .raised (raiseError .invalidStateTransition s)
  | .reserved => .raised (raiseError .invalidStateTransition s)

/-- Read a token that is one bridge unit long, and run it. -/
def unitToken (ctx : Context) (flush : Bool) (s : State) : MicroOutcome :=
  dread ctx.length .truncatedStream flush s fun bytes s₁ => runToken (decodeExact ctx bytes) s₁

/-- Read the next 4 bytes of a longer record (R43, R49): gather them in `s.acc`, and when the record is complete run
it. `note` is what each unit read changes besides (R274 counts it). -/
def gatherToken (ctx : Context) (code : ErrCode) (flush : Bool) (s : State) (note : State → State) : MicroOutcome :=
  dread 4 code flush s fun bytes s₁ =>
    let gathered := s₁.acc ++ bytes
    if gathered.length < ctx.length then .cont (note { s₁ with acc := gathered })
    else runToken (decodeExact ctx gathered) s₁

/-- DEC.READ_HEADER (R353). -/
def decReadHeader (flush : Bool) (s : State) : MicroOutcome :=
  gatherToken .streamHeader .malformedHeader flush s fun s => s

/-- DEC.PREPARE_NEW_BLOCK (R317). -/
def decPrepare (flush : Bool) (s : State) : MicroOutcome := unitToken .blockHeader flush s

/-- The context of the session's signature word (R145). -/
def State.sigContext (s : State) : Context :=
  match s.btype with
  | .bt0 => .signatureW32
  | .bt1 => .signatureW64

/-- DEC.CHECK_SIGNATURE_STATE (R274): every 4-byte unit of the word counts in `s.dcnt`. -/
def decCheckSig (flush : Bool) (s : State) : MicroOutcome :=
  gatherToken s.sigContext .truncatedStream flush s fun s => { s with dcnt := s.dcnt + 4#32 }

/-- The context of the next chunk token (R270, R275): its flag says which. -/
def State.chunkContext (s : State) : Context := if s.chunkFlag then .reference else .literal

/-- DEC.READ_CHUNK (R275). -/
def decReadChunk (flush : Bool) (s : State) : MicroOutcome :=
  if s.cidx = s.n then .cont { s with ks := .readTail } else unitToken s.chunkContext flush s

/-- DEC.READ_TAIL (R277). -/
def decReadTail (flush : Bool) (s : State) : MicroOutcome :=
  if 0 < s.t then unitToken (.tail s.t) flush s else .cont { s with ks := .trailer }

/-- DEC.COPY_BYTES (R319): a body byte of a COPY block is no token; it is output as it is. -/
def decCopyBytes (flush : Bool) (s : State) : MicroOutcome :=
  if s.crem = 0 then .cont { s with ks := .trailer }
  else
    dread 1 .truncatedStream flush s fun bytes s₁ =>
      .cont { emit bytes s₁ with dcnt := s₁.dcnt + 1#32, crem := s₁.crem - 1 }

/-- DEC.BLOCK_TRAILER (R320). -/
def decTrailer (flush : Bool) (s : State) : MicroOutcome := unitToken .blockTrailer flush s

/-- DEC.READ_FOOTER (R355). -/
def decReadFooter (flush : Bool) (s : State) : MicroOutcome :=
  gatherToken .streamFooter .truncatedStream flush s fun s => s

end Sys2Proof.Machine
end

