-- ==== Sys2Proof/Machine/EncodeKernel.lean ====
section
/-!
DEFINITION. The encoder's micro-steps (spec/41_chameleon_encode.md, R316, R318, R350, R351).
-/

namespace Sys2Proof.Machine

/-- CloseBlock(final) (R316): serialise the open block into the OSB. -/
def closeBlock (final : Bool) (s : State) : State :=
  let body := s.blockBody
  let s₁ := { s with
    osb := bytesLE 4 (s.blockHeaderWord final).toNat ++ body ++ bytesLE 4 (BitVec.ofNat 32 body.length).toNat }
  if final then { s₁ with flushed := true, stage := .footer } else { s₁ with ks := .prepare }

/-- ENC.WRITE_HEADER (R350). -/
def encWriteHeader (s : State) : MicroOutcome :=
  .cont { s with osb := s.headerBytes, stage := .blocks, ks := .prepare }

/-- ENC.PREPARE_NEW_BLOCK (R234): clear the block registers; the table is not touched. -/
def encPrepare (s : State) : MicroOutcome :=
  .cont { s with
    blen := 0, sig := 0#64, shift := 0, body := []
    ks := match s.mode with
      | .chameleon => .checkSig
      | .copy => .copyBytes }

/-- ENC.CHECK_SIGNATURE_STATE (R235): a full signature closes the block. -/
def encCheckSig (s : State) : MicroOutcome :=
  if s.shift = s.groupWidth then .cont (closeBlock false s) else .cont { s with ks := .readChunk }

/-- EncodeMiss(c, h, bytes) (R237): a literal. -/
def encodeMiss (c : Word) (h : Half) (bytes : List Byte) (s : State) : State :=
  let s₁ := pack false s
  { s₁ with body := s₁.body ++ bytes }.setEntry h c

/-- EncodeHit(h) (R238): a reference; the table is not written. -/
def encodeHit (h : Half) (s : State) : State :=
  let s₁ := pack true s
  { s₁ with body := s₁.body ++ bytesLE 2 h.toNat }

/-- One whole chunk is encoded (the `ok` branch of R236). -/
def encodeChunk (bytes : List Byte) (s : State) : State :=
  let c := chunkOf bytes
  let h := chunkHash c
  let s₁ := if s.isHit c h then encodeHit h s else encodeMiss c h bytes s
  { s₁ with blen := s₁.blen + 4, ks := .checkSig }

/-- The finish path of R236: the staged bytes are the tail, stored literally, and the final block closes. -/
def encodeTail (s : State) : State :=
  let (tail, s₁) := takeTail s
  closeBlock true { s₁ with body := s₁.body ++ tail, blen := s₁.blen + tail.length }

/-- ENC.READ_CHUNK (R236). -/
def encReadChunk (flush : Bool) (s : State) : MicroOutcome :=
  match readUnit 4 s with
  | .ok bytes s₁ => .cont (encodeChunk bytes s₁)
  | .insufficient s₁ => if flush then .cont (encodeTail s₁) else .stallInput s₁

/-- ENC.COPY_BYTES (R318). -/
def encCopyBytes (flush : Bool) (s : State) : MicroOutcome :=
  if s.blen = s.blockBytes then .cont (closeBlock false s)
  else
    match readUnit 1 s with
    | .ok bytes s₁ => .cont { s₁ with body := s₁.body ++ bytes, blen := s₁.blen + 1 }
    | .insufficient s₁ => if flush then .cont (closeBlock true s₁) else .stallInput s₁

/-- ENC.WRITE_FOOTER (R351). -/
def encWriteFooter (s : State) : MicroOutcome :=
  .cont { s with osb := s.footerBytes, fin := true }

end Sys2Proof.Machine
end

