-- ==== Sys2Proof/Machine/Process.lean ====
section
/-!
DEFINITION. The PROCESS loop and the dispatch of its micro-steps (spec/45_host_commands.md R403 to R405).
-/

namespace Sys2Proof.Machine

/-- A (role, mode, ks) combination with no rule in the table of R404 (R436). -/
def unassignedPoint (s : State) : MicroOutcome := .raised (raiseError .invalidStateTransition s)

/-- The encoder's rows of R404 for stage 1. -/
def encBlockStep (flush : Bool) (s : State) : MicroOutcome :=
  match s.ks, s.mode with
  | .prepare, _ => encPrepare s
  | .checkSig, .chameleon => encCheckSig s
  | .readChunk, .chameleon => encReadChunk flush s
  | .copyBytes, .copy => encCopyBytes flush s
  | .checkSig, .copy => unassignedPoint s
  | .readChunk, .copy => unassignedPoint s
  | .copyBytes, .chameleon => unassignedPoint s
  | .readTail, _ => unassignedPoint s
  | .trailer, _ => unassignedPoint s
  | .unassigned _, _ => unassignedPoint s

/-- The decoder's rows of R404 for stage 1. -/
def decBlockStep (flush : Bool) (s : State) : MicroOutcome :=
  match s.ks, s.mode with
  | .prepare, _ => decPrepare flush s
  | .checkSig, .chameleon => decCheckSig flush s
  | .readChunk, .chameleon => decReadChunk flush s
  | .readTail, .chameleon => decReadTail flush s
  | .copyBytes, .copy => decCopyBytes flush s
  | .trailer, _ => decTrailer flush s
  | .checkSig, .copy => unassignedPoint s
  | .readChunk, .copy => unassignedPoint s
  | .readTail, .copy => unassignedPoint s
  | .copyBytes, .chameleon => unassignedPoint s
  | .unassigned _, _ => unassignedPoint s

/-- MicroStep dispatch (R404). Stage 3 never reaches it (R402); there it is an unassigned point like any other
combination without a rule. -/
def microStep (flush : Bool) (s : State) : MicroOutcome :=
  match s.stage, s.role with
  | .header, .encode => encWriteHeader s
  | .header, .decode => decReadHeader flush s
  | .blocks, .encode => encBlockStep flush s
  | .blocks, .decode => decBlockStep flush s
  | .footer, .encode => encWriteFooter s
  | .footer, .decode => decReadFooter flush s
  | .finished, _ => unassignedPoint s

/-- ProcessLoop(flush) (R403), with a bound on its turns. Each turn drains first; then the footer check; then one
micro-step, with the OSB empty. -/
def processLoop : Nat → Bool → State → Host.Outcome State Fault Refusal
  | 0, _, _ => .fault .loopBound
  | turns + 1, flush, s =>
    let s₁ := drain s
    if s₁.osb ≠ [] then .next { s₁ with result := .stallOut }
    else if s₁.fin then .next { s₁ with result := .ready }
    else
      match microStep flush s₁ with
      | .cont s₂ => processLoop turns flush s₂
      | .stallInput s₂ => .next { s₂ with result := .stallIn }
      | .raised s₂ => .next s₂
      | .stopped f => .fault f
      | .refused r => .refused r

/-- The turns the loop is given. R405 bounds the micro-steps of a reachable state by 4a + 8, with a the bytes
available in the input view; the slack covers states that no run reaches (assumption log 6). -/
def processTurns (s : State) : Nat := 4 * s.inAvail + 16

end Sys2Proof.Machine
end

