-- ==== Sys2Proof/Machine/Commands.lean ====
section
/-!
DEFINITION. The meanings of the host's commands (spec/45_host_commands.md).
-/

namespace Sys2Proof.Machine

/-- INIT.ENC (R391, R392): the mode is checked first, then the block type. A failed INIT leaves no session. -/
def execInitEnc (mode btype : Byte) (s : State) : Host.Outcome State Fault Refusal :=
  let s := sessionReset s
  match Mode.ofByte mode with
  | none => .next (raiseError .unsupportedMode s)
  | some m =>
    match BlockType.ofByte btype with
    | none => .next (raiseError .malformedHeader s)
    | some bt => .next (sessionStart { s with role := .encode, mode := m, btype := bt })

/-- INIT.DEC (R391, R393): always succeeds; the mode and block type are placeholders until the header is read. -/
def execInitDec (s : State) : Host.Outcome State Fault Refusal :=
  .next (sessionStart { sessionReset s with role := .decode, mode := .copy, btype := .bt0 })

/-- PROCESS (R402). Its precondition first: a PROCESS issued with overlapping views is refused (R477, I22); that
the refusal comes before R435's order of the entry checks is DEDUCED, safe (assumption log 5). Then no
session, a latched error and a finished session answer at once; otherwise the loop runs, over addresses that have memory
(R106, I23). -/
def execProcess (flush : Bool) (s : State) : Host.Outcome State Fault Refusal :=
  if s.viewsOverlap then .refused .overlappingViews
  else if s.active = false then .next (noSession s)
  else if s.err ≠ .none then .next { s with result := .error }
  else if s.stage = .finished then .next (raiseError .invalidStateTransition s)
  else onBackedMemory s (processLoop (processTurns s) flush s)

/-- FINISH (R407): commits a stream whose footer is complete and written. -/
def execFinish (s : State) : Host.Outcome State Fault Refusal :=
  if s.active = false then .next (noSession s)
  else if s.err ≠ .none then .next { s with result := .error }
  else if s.stage = .footer ∧ s.fin = true ∧ s.osb = [] then .next { s with stage := .finished, result := .ready }
  else .next (raiseError .invalidStateTransition s)

/-- The reserved opcode (R408, R152): an error, never a no-op. -/
def execReserved (s : State) : Host.Outcome State Fault Refusal :=
  if s.active = false then .next (noSession s)
  else if s.err ≠ .none then .next { s with result := .error }
  else .next (raiseError .invalidStateTransition s)

end Sys2Proof.Machine
end

