-- ==== Sys2Proof/Machine/Dispatch.lean ====
section
/-!
DEFINITION. The dispatch: one arm per constructor of `Instr`, one direct call of its meaning.
-/

namespace Sys2Proof.Machine

def exec (i : Instr) (s : State) : Host.Outcome State Fault Refusal :=
  match i with
  | .initEnc mode btype => Sys2Proof.Machine.execInitEnc mode btype s
  | .initDec => Sys2Proof.Machine.execInitDec s
  | .process flush => Sys2Proof.Machine.execProcess flush s
  | .finish => Sys2Proof.Machine.execFinish s
  | .reserved => Sys2Proof.Machine.execReserved s
  | .streamHeader version mode btype rsvd => Sys2Proof.Machine.execStreamHeader version mode btype rsvd s
  | .blockHeader len final rsvd => Sys2Proof.Machine.execBlockHeader len final rsvd s
  | .signatureW32 flags => Sys2Proof.Machine.execSignatureW32 flags s
  | .signatureW64 flags => Sys2Proof.Machine.execSignatureW64 flags s
  | .reference h => Sys2Proof.Machine.execReference h s
  | .literal chunk => Sys2Proof.Machine.execLiteral chunk s
  | .tail bytes => Sys2Proof.Machine.execTail bytes s
  | .blockTrailer count => Sys2Proof.Machine.execBlockTrailer count s
  | .streamFooter origLen encLen => Sys2Proof.Machine.execStreamFooter origLen encLen s

end Sys2Proof.Machine
end

