-- ==== Sys2Proof/Machine/HostPort.lean ====
section
/-!
DEFINITION. The host's side of the block: the register window (spec/10_state.md R32 to R39), the host's accesses to its
own memory and the reset input, and the parking of one instruction as the next thing the machine runs.
-/

namespace Sys2Proof.Machine

/-- A register read at a word offset of the window (R32 to R39). CMD reads 0 (R33), and so do the reserved offsets
(R39). -/
def State.readRegister (s : State) (offset : Nat) : Word :=
  match offset with
  | 0x04 => s.statusWord
  | 0x08 => s.inBase
  | 0x0C => s.inPos
  | 0x10 => s.inCap
  | 0x14 => s.outBase
  | 0x18 => s.outPos
  | 0x1C => s.outCap
  | 0x20 => s.totalRead.extractLsb' 0 32
  | 0x24 => s.totalRead.extractLsb' 32 32
  | 0x28 => s.totalWritten.extractLsb' 0 32
  | 0x2C => s.totalWritten.extractLsb' 32 32
  | 0x30 => s.pendWord
  | _ => 0#32

/-- A register write at a word offset other than CMD's (R32): the six view registers store the value (R35, R36); every
other register ignores it (R34, R37 to R39). -/
def State.writeRegister (s : State) (offset : Nat) (v : Word) : State :=
  match offset with
  | 0x08 => { s with inBase := v }
  | 0x0C => { s with inPos := v }
  | 0x10 => { s with inCap := v }
  | 0x14 => { s with outBase := v }
  | 0x18 => { s with outPos := v }
  | 0x1C => { s with outCap := v }
  | _ => s

/-- The offset in the register window of an address of the register space (R32, R106). -/
def State.windowOffset (s : State) (addr : Word) : Nat := (addr - s.regBase).toNat

/-- What a register access of this width at this offset runs into before the block sees it: only aligned 32-bit
accesses inside the window are the block's (R111, R39). -/
def accessCheck (width offset : Nat) : Option Refusal :=
  if width ≠ 4 ∨ offset % 4 ≠ 0 then some .registerAccess
  else if Config.windowSize ≤ offset then some .outsideWindow
  else none

/-- One host access. A write to CMD decodes the word and runs the command (R33, R390); reads have no side effect on the
block (R112). A load or store at an address with no memory is outside the model (R106). -/
def hostAccess (a : HostAccess) (s : State) : Host.Outcome State Fault Refusal :=
  match a with
  | .regWrite width addr v =>
    match accessCheck width (s.windowOffset addr) with
    | some r => .refused r
    | none =>
      if s.windowOffset addr = 0 then exec (decodeCommand v) s else .next (s.writeRegister (s.windowOffset addr) v)
  | .regRead width addr =>
    match accessCheck width (s.windowOffset addr) with
    | some r => .refused r
    | none => .next { s with readData := s.readRegister (s.windowOffset addr) }
  | .memWrite addr v => if s.backed addr then .next (s.writeByte addr v) else .refused .noMemory
  | .memRead addr =>
    if s.backed addr then .next { s with readData := (s.readByte addr).setWidth 32 } else .refused .noMemory
  | .hardwareReset => .next (hardwareReset s)

/-! ## Parking one instruction as the next thing to run (assumption log 9) -/

/-- Put a CMD write of word `v` in front of the host's accesses. -/
def issueCommand (v : Word) (s : State) : State := { s with host := .regWrite 4 s.regBase v :: s.host }

/-- Store bytes from host address `a` on. -/
def storeBytes : List Byte → Word → State → State
  | [], _, s => s
  | b :: rest, a, s => storeBytes rest (a + 1#32) (s.writeByte a b)

/-- A decode session with nothing staged, parked at a resumption point. -/
def parkDecoder (stage : Stage) (ks : KStage) (mode : Mode) (btype : BlockType) (s : State) : State :=
  { s with
    active := true, err := .none, role := .decode, mode := mode, btype := btype, stage := stage, ks := ks
    fin := false, osb := [], k := 0, acc := [] }

/-- The decode session in which a token of this context is the next one due (R404). -/
def parkFor (ctx : Context) (s : State) : State :=
  match ctx with
  | .command => s
  | .streamHeader => parkDecoder .header .prepare .copy .bt0 s
  | .blockHeader => parkDecoder .blocks .prepare .chameleon .bt0 s
  | .signatureW32 => parkDecoder .blocks .checkSig .chameleon .bt0 s
  | .signatureW64 => parkDecoder .blocks .checkSig .chameleon .bt1 s
  | .reference => { parkDecoder .blocks .readChunk .chameleon .bt0 s with n := 1, cidx := 0, sig := 1#64 }
  | .literal => { parkDecoder .blocks .readChunk .chameleon .bt0 s with n := 1, cidx := 0, sig := 0#64 }
  | .tail t => { parkDecoder .blocks .readTail .chameleon .bt0 s with t := t }
  | .blockTrailer => parkDecoder .blocks .trailer .chameleon .bt0 s
  | .streamFooter => parkDecoder .footer .trailer .chameleon .bt0 s

/-- Make a token's bytes the whole input view, with memory behind it, empty the output view (so that the views do not
overlap), park the decoder where the token is due, and let the host issue PROCESS. -/
def placeToken (ctx : Context) (bytes : List Byte) (s : State) : State :=
  let s := storeBytes bytes s.inBase (parkFor ctx s)
  issueCommand 0x00000001#32 { s with
    inPos := 0#32, inCap := BitVec.ofNat 32 bytes.length, outCap := s.outPos
    memMap := ⟨s.inBase, bytes.length⟩ :: s.memMap }

/-- Place the bits of a table row where the machine takes its next instruction from. -/
def placeInstruction (nbits w : Nat) (s : State) : State :=
  match tableContext nbits w with
  | none => s
  | some .command => issueCommand (BitVec.ofNat 32 w) s
  | some ctx => placeToken ctx (bytesLE (nbits / 8) w) s

end Sys2Proof.Machine
end

