-- ==== Sys2Proof/Machine/Step.lean ====
section
/-!
DEFINITION. One step of the machine: the host's next access. With none pending the block is idle and holds its state
(spec/60_exceptions.md R446).
-/

namespace Sys2Proof.Machine

/-- One step (assumption log 3). A CMD write runs its command whole, as one atomic transition (R401). -/
def step (s : State) : Host.Outcome State Fault Refusal :=
  match s.host with
  | [] => .next s
  | a :: rest => hostAccess a { s with host := rest }

/-- `s` with the bits of an opcode-table row placed so that the very next step runs them (assumption log 9): a command
word as the host's next CMD write; a wire token as the whole input of a decode session in which it is due, with a
PROCESS issued. -/
def State.withFetchWord (s : State) (nbits w : Nat) : State := placeInstruction nbits w s

end Sys2Proof.Machine
end

