-- ==== Sys2Proof/Safety.lean ====
section
/-!
DEFINITION. What a good state is: the invariants of spec/10_state.md R41, R49, R52 and the session shape that R51, R404
and R357 describe, with the canonical form of memory and of the hash table. And the words the statements use for what
is due next.
-/

namespace Sys2Proof

/-! ## What is due -/

/-- Records longer than a bridge unit are gathered in `s.acc`, 4 bytes at a time (R43, R49). -/
def Context.isGathered : Context → Bool
  | .streamHeader => true
  | .signatureW32 => true
  | .signatureW64 => true
  | .streamFooter => true
  | _ => false

/-- The `n` of the bridge read that fetches a token's bytes (R204). -/
def Context.unitLength (ctx : Context) : Nat := if ctx.isGathered then 4 else ctx.length

/-- The bytes of the token, given the unit just read: a gathered record's earlier units stand in `s.acc`. -/
def Context.tokenBytes (ctx : Context) (s : Machine.State) (unit : List Byte) : List Byte :=
  if ctx.isGathered then s.acc ++ unit else unit

end Sys2Proof

namespace Sys2Proof.Machine

/-- The token the decoder reads next (R404), if it reads one: none at the steps that read no token. -/
def State.tokenDue (s : State) : Option Context :=
  match s.role, s.stage, s.ks, s.mode with
  | .encode, _, _, _ => none
  | .decode, .header, _, _ => some .streamHeader
  | .decode, .footer, _, _ => some .streamFooter
  | .decode, .finished, _, _ => none
  | .decode, .blocks, .prepare, _ => some .blockHeader
  | .decode, .blocks, .checkSig, .chameleon => some s.sigContext
  | .decode, .blocks, .readChunk, .chameleon => if s.cidx = s.n then none else some s.chunkContext
  | .decode, .blocks, .readTail, .chameleon => if 0 < s.t then some (.tail s.t) else none
  | .decode, .blocks, .trailer, _ => some .blockTrailer
  | .decode, .blocks, _, _ => none

/-- The `n` of the session's next bridge read (R52 (1)); 0 at a point that reads nothing. -/
def State.nextRead (s : State) : Nat :=
  match s.role, s.stage, s.ks, s.mode with
  | .encode, .blocks, .readChunk, .chameleon => 4
  | .encode, .blocks, .copyBytes, .copy => 1
  | .encode, _, _, _ => 0
  | .decode, .header, _, _ => 4
  | .decode, .footer, _, _ => if s.fin then 0 else 4
  | .decode, .finished, _, _ => 0
  | .decode, .blocks, .prepare, _ => 4
  | .decode, .blocks, .checkSig, _ => 4
  | .decode, .blocks, .readChunk, _ => if s.cidx = s.n then 0 else s.chunkContext.length
  | .decode, .blocks, .readTail, _ => s.t
  | .decode, .blocks, .copyBytes, _ => if s.crem = 0 then 0 else 1
  | .decode, .blocks, .trailer, _ => 4
  | .decode, .blocks, .unassigned _, _ => 0

/-- The size of the record that `s.acc` gathers (R49); where no record is gathered (a footer already complete included,
R355), 4, below which only 0 is a multiple of 4. -/
def State.recordSize (s : State) : Nat :=
  match s.stage, s.ks with
  | .header, _ => 8
  | .footer, _ => if s.fin then 4 else 16
  | .blocks, .checkSig => s.sigBytes
  | _, _ => 4

/-! ## The invariant -/

/-- R404, R436: the resumption point has a rule. -/
def State.pointAssigned (s : State) : Prop :=
  s.stage = .blocks →
    s.ks = .prepare ∨ (s.role = .decode ∧ s.ks = .trailer) ∨
    (s.mode = .chameleon ∧ (s.ks = .checkSig ∨ s.ks = .readChunk ∨ (s.role = .decode ∧ s.ks = .readTail))) ∨
    (s.mode = .copy ∧ s.ks = .copyBytes)

/-- R52 (3) and R42: the open block of a CHAMELEON encoder. -/
def State.encoderGroupOk (s : State) : Prop :=
  s.role = .encode → s.stage = .blocks → s.mode = .chameleon → (s.ks = .checkSig ∨ s.ks = .readChunk) →
    s.shift ≤ s.groupWidth ∧ (s.ks = .readChunk → s.shift < s.groupWidth) ∧ s.blen = 4 * s.shift ∧
    s.body.length ≤ 4 * s.shift

/-- R52 (4): the signature bits of an encoder at or above `s.shift` are 0, whatever it is doing. -/
def State.encoderSigOk (s : State) : Prop := s.role = .encode → s.sig.toNat < 2 ^ s.shift

/-- R42: the open block of a COPY encoder. -/
def State.encoderCopyOk (s : State) : Prop :=
  s.role = .encode → s.stage = .blocks → s.mode = .copy → s.ks = .copyBytes →
    s.blen ≤ s.blockBytes ∧ s.body.length = s.blen

/-- R43, R317: the block of a CHAMELEON decoder, after its header. -/
def State.decoderGroupOk (s : State) : Prop :=
  s.role = .decode → s.stage = .blocks → s.mode = .chameleon → s.ks ≠ .prepare → s.ks ≠ .trailer →
    s.blen ≤ s.blockBytes ∧ s.blen = 4 * s.n + s.t ∧ s.t < 4 ∧ s.cidx ≤ s.n

/-- R43, R317: the block of a COPY decoder, after its header. -/
def State.decoderCopyOk (s : State) : Prop :=
  s.role = .decode → s.stage = .blocks → s.mode = .copy → s.ks = .copyBytes →
    s.blen ≤ s.blockBytes ∧ s.crem ≤ s.blen

/-- What holds of a live session. -/
structure State.SessionInv (s : State) : Prop where
  /-- R52 (1), R200 (a): the bridge holds less than the next read takes (R52 (6) follows). -/
  bridge : s.k < s.nextRead ∨ s.k = 0
  point : s.pointAssigned
  encoderGroup : s.encoderGroupOk
  encoderSig : s.encoderSigOk
  encoderCopy : s.encoderCopyOk
  decoderGroup : s.decoderGroupOk
  decoderCopy : s.decoderCopyOk
  /-- R49. -/
  gathered : s.role = .decode → s.acc.length % 4 = 0 ∧ s.acc.length < s.recordSize
  /-- R357: FIN is set in stage 2 and stays. -/
  finStage : s.fin = true → s.stage = .footer ∨ s.stage = .finished
  /-- R407: FINISHED only with the footer complete and written. -/
  finishedDone : s.stage = .finished → s.fin = true ∧ s.osb = []
  /-- R316: FLUSHED is set with the encoder's move to stage 2. -/
  flushedStage : s.flushed = true ↔ s.role = .encode ∧ (s.stage = .footer ∨ s.stage = .finished)

/-- What holds of every state of a run. -/
structure State.Inv (s : State) : Prop where
  /-- Host memory keeps its canonical form. -/
  memWf : s.mem.wf = true
  /-- So does the hash table. -/
  htWf : s.ht.wf = true
  /-- R41. -/
  bridgeCount : s.k < Config.unit
  /-- R52 (2), R44. -/
  osbCap : s.osb.length ≤ Config.osbCap
  /-- R53, R47, R48: ERR is set exactly when RESULT is ERROR. -/
  errResult : s.err ≠ .none ↔ s.result = .error
  /-- R400, R391: with no session, nothing is pending. -/
  noSession : s.active = false → s.osb = []
  session : s.active = true → s.SessionInv

/-! ## What two runs may differ in -/

/-- The same state but for scratch bytes that no longer count: those at or above `s.k` (R41). -/
def State.sameButDeadScratch (s t : State) : Prop :=
  { s with scr := t.scr } = t ∧ s.scr.bytes.take s.k = t.scr.bytes.take t.k

end Sys2Proof.Machine
end

