-- ==== Sys2Proof/Certificates/Slice0/Obligations.lean ====
section
/-!
DEFINITION. The statements for the provers, one `def Obligations.<Name> : Prop` each. A statement that gives a whole
next state as `{ s with … }` says its frame with it: every field that is not named keeps its value, and with `mem`
unnamed every byte of memory does.
-/

open Sys2Proof Sys2Proof.Machine

/-! ## Words the statements use -/

namespace Sys2Proof.Statements

/-- The command is about to enter the PROCESS loop (R402): a live, healthy, unfinished session whose views are apart. -/
def entersLoop (s : State) : Prop :=
  s.active = true ∧ s.err = .none ∧ s.stage ≠ .finished ∧ s.viewsOverlap = false

/-- Every unconsumed input byte and every free output byte has memory behind it (R106, R476). -/
def viewsBacked (s : State) : Prop :=
  s.viewBacked s.inBase s.inPos s.inAvail = true ∧ s.viewBacked s.outBase s.outPos s.outAvail = true

/-- One of the three commands that need a session. PROCESS comes with its precondition, that its views are apart (R477);
without it PROCESS is refused (`OverlappingViewsAreRefused`). -/
def sessionCommand (i : Instr) (s : State) : Prop :=
  (∃ flush, i = .process flush ∧ s.viewsOverlap = false) ∨ i = .finish ∨ i = .reserved

/-- What the host's own accesses and memory look like is untouched. -/
def sameOutside (s t : State) : Prop :=
  t.inBase = s.inBase ∧ t.inPos = s.inPos ∧ t.inCap = s.inCap ∧ t.outBase = s.outBase ∧ t.outPos = s.outPos ∧
    t.outCap = s.outCap ∧ t.mem = s.mem ∧ t.regBase = s.regBase ∧ t.memMap = s.memMap ∧ t.host = s.host ∧
    t.readData = s.readData

/-- The token that the encoder's matcher chooses for a chunk (R231, R237, R238). -/
def tokenOfChunk (c : Word) (s : State) : Instr :=
  if s.isHit c (chunkHash c) then .reference (chunkHash c) else .literal c

/-- Encode a list of chunks one after the other: the tokens chosen, and the encoder's state after them. -/
def encodeChunks : List Word → State → List Instr × State
  | [], s => ([], s)
  | c :: rest, s =>
    let after := encodeChunks rest (encodeChunk (chunkBytes c) s)
    (tokenOfChunk c s :: after.1, after.2)

/-- Run a list of tokens one after the other. -/
def runTokens : List Instr → State → Host.Outcome State Fault Refusal
  | [], s => .next s
  | i :: rest, s =>
    match exec i s with
    | .next t => runTokens rest t
    | .fault f => .fault f
    | .refused r => .refused r

/-- The two agree on everything R471 fixes after a hardware reset, on memory, on the platform's map and on the host's
side; every field that R471 leaves unspecified may differ. -/
def sameSpecifiedReset (s t : State) : Prop :=
  t = { s with
    role := t.role, mode := t.mode, btype := t.btype, stage := t.stage, ks := t.ks, fin := t.fin, flushed := t.flushed
    scr := t.scr, k := t.k, blen := t.blen, sig := t.sig, shift := t.shift, body := t.body, bfinal := t.bfinal
    n := t.n, t := t.t, cidx := t.cidx, crem := t.crem, dcnt := t.dcnt, acc := t.acc, footStart := t.footStart
    ht := t.ht }

/-- The register window (R32): each offset and the value a read of it returns. -/
def registerTable (s : State) : List (Nat × Word) :=
  [(0x00, 0#32), (0x04, s.statusWord), (0x08, s.inBase), (0x0C, s.inPos), (0x10, s.inCap), (0x14, s.outBase),
    (0x18, s.outPos), (0x1C, s.outCap), (0x20, s.totalRead.extractLsb' 0 32), (0x24, s.totalRead.extractLsb' 32 32),
    (0x28, s.totalWritten.extractLsb' 0 32), (0x2C, s.totalWritten.extractLsb' 32 32), (0x30, s.pendWord),
    (0x34, 0#32), (0x38, 0#32), (0x3C, 0#32)]

/-- The STAGE number of R50's table. -/
def stageNumber : Stage → Nat
  | .header => 0
  | .blocks => 1
  | .footer => 2
  | .finished => 3

/-- The KSTAGE number of R51's table. -/
def kstageNumber : KStage → Nat
  | .prepare => 0
  | .checkSig => 1
  | .readChunk => 2
  | .copyBytes => 3
  | .readTail => 4
  | .trailer => 5
  | .unassigned v => 6 + v

/-- The RESULT number of R34's table. -/
def resultNumber : Result → Nat
  | .none => 0
  | .ready => 1
  | .stallIn => 2
  | .stallOut => 3
  | .error => 4

/-- The ERR number of R430's table. -/
def errNumber : ErrCode → Nat
  | .none => 0
  | .malformedHeader => 1
  | .unsupportedMode => 2
  | .invalidStateTransition => 3
  | .truncatedStream => 4

end Sys2Proof.Statements

open Sys2Proof.Statements

/-! ## Reset and the host's side -/

/-- R471: every value the spec gives after a hardware reset. -/
def Obligations.ResetHoldsSpecValues : Prop :=
  State.reset.inBase = 0#32 ∧ State.reset.inPos = 0#32 ∧ State.reset.inCap = 0#32 ∧ State.reset.outBase = 0#32 ∧
    State.reset.outPos = 0#32 ∧ State.reset.outCap = 0#32 ∧ State.reset.statusWord = 0x00000000#32 ∧
    State.reset.result = .none ∧ State.reset.err = .none ∧ State.reset.active = false ∧
    State.reset.totalRead = 0#64 ∧ State.reset.totalWritten = 0#64 ∧ State.reset.osb = [] ∧
    State.reset.pendWord = 0#32

/-- R470: a hardware reset gives the reset state and touches no memory. That the fields R471 leaves unspecified take
their `State.reset` values is the model's choice (assumption log 2). -/
def Obligations.HardwareResetKeepsMemory : Prop :=
  ∀ (s : State) (rest : List HostAccess), s.host = .hardwareReset :: rest →
    step s = .next { State.reset with
      mem := s.mem, regBase := s.regBase, memMap := s.memMap, host := rest, readData := s.readData }

/-- R446: with no access of the host pending, the block holds its state ("it holds its state while idle"). That being idle
is a step of the machine is the model's choice (assumption log 3). -/
def Obligations.IdleBlockHoldsItsState : Prop :=
  ∀ s : State, s.host = [] → step s = .next s

/-- R33, R390: a 32-bit write to CMD decodes, to exactly one well-formed command, and the step runs that command on the
state without the access. -/
def Obligations.StepRunsDecodedCommand : Prop :=
  ∀ (s : State) (v : Word) (rest : List HostAccess), s.host = .regWrite 4 s.regBase v :: rest →
    ∃ i, decode .command (bytesLE 4 v.toNat) = .ok (i, []) ∧ WellFormed i = true ∧ i.isCommand = true ∧
      step s = exec i { s with host := rest }

/-- R32, R33, R37, R38, R39, R106: what a register read returns, at every offset of the window from REG_BASE; the block is
unchanged (R112). PEND is the length of the OSB. An aligned access outside the window is refused, which is the model's
choice (assumption log 12). -/
def Obligations.RegisterReadsReturnTheRegister : Prop :=
  (∀ (s : State) (rest : List HostAccess) (offset : Nat) (v : Word),
    s.host = .regRead 4 (s.regBase + BitVec.ofNat 32 offset) :: rest → (offset, v) ∈ registerTable s →
    step s = .next { s with host := rest, readData := v }) ∧
  (∀ s : State, s.pendWord = 0#23 ++ BitVec.ofNat 9 s.osb.length ∧
    (s.osb.length ≤ 272 → s.pendWord.toNat = s.osb.length)) ∧
  (∀ (s : State) (rest : List HostAccess) (addr v : Word),
    (addr - s.regBase).toNat % 4 = 0 → 64 ≤ (addr - s.regBase).toNat →
    (s.host = .regRead 4 addr :: rest → step s = .refused .outsideWindow) ∧
    (s.host = .regWrite 4 addr v :: rest → step s = .refused .outsideWindow))

/-- R32, R35, R36: a write to a view register stores the value; a write to STATUS, to a counter, to PEND or to a
reserved offset is ignored. -/
def Obligations.RegisterWritesStoreOrAreIgnored : Prop :=
  ∀ (s : State) (rest : List HostAccess) (v : Word),
    (s.host = .regWrite 4 (s.regBase + 0x08#32) v :: rest → step s = .next { s with host := rest, inBase := v }) ∧
    (s.host = .regWrite 4 (s.regBase + 0x0C#32) v :: rest → step s = .next { s with host := rest, inPos := v }) ∧
    (s.host = .regWrite 4 (s.regBase + 0x10#32) v :: rest → step s = .next { s with host := rest, inCap := v }) ∧
    (s.host = .regWrite 4 (s.regBase + 0x14#32) v :: rest → step s = .next { s with host := rest, outBase := v }) ∧
    (s.host = .regWrite 4 (s.regBase + 0x18#32) v :: rest → step s = .next { s with host := rest, outPos := v }) ∧
    (s.host = .regWrite 4 (s.regBase + 0x1C#32) v :: rest → step s = .next { s with host := rest, outCap := v }) ∧
    (∀ offset ∈ [0x04, 0x20, 0x24, 0x28, 0x2C, 0x30, 0x34, 0x38, 0x3C],
      s.host = .regWrite 4 (s.regBase + BitVec.ofNat 32 offset) v :: rest → step s = .next { s with host := rest })

/-- R111, I21: a register access that is not an aligned 32-bit access is refused, a read and a write alike. That it is
refused so at every address of the register space, outside the window too, and that alignment is its offset's from
REG_BASE, is the model's choice (assumption log 12). -/
def Obligations.UnalignedRegisterAccessRefused : Prop :=
  ∀ (s : State) (rest : List HostAccess) (width : Nat) (addr v : Word),
    width ≠ 4 ∨ (addr - s.regBase).toNat % 4 ≠ 0 →
    (s.host = .regRead width addr :: rest → step s = .refused .registerAccess) ∧
    (s.host = .regWrite width addr v :: rest → step s = .refused .registerAccess)

/-- R34: every field of STATUS at its bits, the masking of [27:12] while ACTIVE = 0, and the bits that read 0. -/
def Obligations.StatusFieldsStandAtTheirBits : Prop :=
  ∀ s : State,
    s.statusWord.extractLsb' 0 3 = BitVec.ofNat 3 (resultNumber s.result) ∧ s.statusWord.extractLsb' 3 1 = 0#1 ∧
    s.statusWord.extractLsb' 4 1 = BitVec.ofBool s.active ∧ s.statusWord.extractLsb' 5 3 = 0#3 ∧
    s.statusWord.extractLsb' 8 4 = BitVec.ofNat 4 (errNumber s.err) ∧ s.statusWord.extractLsb' 28 4 = 0#4 ∧
    (s.active = false → s.statusWord.extractLsb' 12 16 = 0#16) ∧
    (s.active = true →
      s.statusWord.extractLsb' 12 1 = BitVec.ofBool (s.role = .decode) ∧
      s.statusWord.extractLsb' 13 2 = BitVec.ofNat 2 (stageNumber s.stage) ∧
      s.statusWord.extractLsb' 15 1 = BitVec.ofBool s.fin ∧ s.statusWord.extractLsb' 16 1 = BitVec.ofBool s.flushed ∧
      s.statusWord.extractLsb' 17 1 = BitVec.ofBool (s.mode = .chameleon) ∧
      s.statusWord.extractLsb' 18 1 = BitVec.ofBool (s.btype = .bt1) ∧ s.statusWord.extractLsb' 19 1 = 0#1 ∧
      s.statusWord.extractLsb' 20 2 = BitVec.ofNat 2 s.k ∧ s.statusWord.extractLsb' 22 2 = 0#2 ∧
      s.statusWord.extractLsb' 24 4 = BitVec.ofNat 4 (kstageNumber s.ks))

/-- R103, R106, R476: the host's accesses to its own memory. A byte it stores is read back and every other byte keeps its
value; a byte it loads is returned; the block is unchanged. At an address with no memory behind it both are refused. That
these accesses are steps of the machine, and refused so, is the model's choice (assumption log 3, assumption log 10). -/
def Obligations.HostMemoryAccessesReachMemory : Prop :=
  ∀ (s : State) (rest : List HostAccess) (addr : Word) (v : Byte),
    (s.backed addr = true → s.host = .memWrite addr v :: rest → ∃ t, step s = .next t ∧
      t = { s with host := rest, mem := t.mem } ∧
      (s.mem.wf = true → t.readByte addr = v ∧ t.mem.wf = true) ∧
      ∀ other : Word, other ≠ addr → t.readByte other = s.readByte other) ∧
    (s.backed addr = true → s.host = .memRead addr :: rest →
      step s = .next { s with host := rest, readData := BitVec.ofNat 32 (s.readByte addr).toNat }) ∧
    (s.backed addr = false → s.host = .memWrite addr v :: rest → step s = .refused .noMemory) ∧
    (s.backed addr = false → s.host = .memRead addr :: rest → step s = .refused .noMemory)

/-! ## Encodings -/

/-- Decode and encode agree: for every well-formed instruction, with every operand at every value the encoding admits,
decoding its bytes in its context gives it back and leaves the bytes that follow. -/
def Obligations.DecodeOfEncodeIsTheInstruction : Prop :=
  ∀ (i : Instr) (rest : List Byte), WellFormed i = true → decode i.context (encode i ++ rest) = .ok (i, rest)

/-- R390, R150: a CMD write runs the command of the row that its word selects, with its operands. -/
def Obligations.CommandWordSelectsItsRow : Prop :=
  (∀ (s : State) (v : Word) (rest : List HostAccess), s.host = .regWrite 4 s.regBase v :: rest →
    step s = exec (decodeCommand v) { s with host := rest }) ∧
  ∀ v : Word,
    (v.extractLsb' 0 2 = 0#2 → v.getLsbD 3 = false →
      decodeCommand v = .initEnc (v.extractLsb' 8 8) (v.extractLsb' 16 8)) ∧
    (v.extractLsb' 0 2 = 0#2 → v.getLsbD 3 = true → decodeCommand v = .initDec) ∧
    (v.extractLsb' 0 2 = 1#2 → decodeCommand v = .process (v.getLsbD 2)) ∧
    (v.extractLsb' 0 2 = 2#2 → decodeCommand v = .finish) ∧
    (v.extractLsb' 0 2 = 3#2 → decodeCommand v = .reserved)

/-- R151: two words that differ only in bits the row does not use are the same command: bits [7:4] and [31:24] always,
FLUSH in INIT and FINISH, ROLE, MODE and BTYPE in PROCESS and FINISH, MODE and BTYPE in INIT.DEC. -/
def Obligations.IgnoredCommandBitsHaveNoEffect : Prop :=
  ∀ v w : Word, v.extractLsb' 0 2 = w.extractLsb' 0 2 →
    (v.extractLsb' 0 2 = 0#2 → v.getLsbD 3 = w.getLsbD 3 ∧
      (v.getLsbD 3 = false → v.extractLsb' 8 16 = w.extractLsb' 8 16)) →
    (v.extractLsb' 0 2 = 1#2 → v.getLsbD 2 = w.getLsbD 2) →
    decodeCommand v = decodeCommand w

/-- Words written out from R143 to R153 and R157 decode to the instructions they stand for. -/
def Obligations.SpecWordsDecode : Prop :=
  decodeCommand 0x00000100#32 = .initEnc 1#8 0#8 ∧ decodeCommand 0x00FF0FF8#32 = .initDec ∧
    decodeCommand 0x00000005#32 = .process true ∧ decodeCommand 0x00000002#32 = .finish ∧
    decode .streamHeader [1#8, 0#8, 0#8, 1#8, 0#8, 0#8, 0#8, 0#8] = .ok (.streamHeader 1#24 1#8 0#8 0#24, []) ∧
    decode .blockHeader [0x28#8, 0#8, 1#8, 0#8] = .ok (.blockHeader 40#16 true 0#15, []) ∧
    decode .signatureW32 [0xFE#8, 3#8, 0#8, 0#8] = .ok (.signatureW32 0x3FE#32, []) ∧
    decode .reference [0x01#8, 0xFB#8] = .ok (.reference 0xFB01#16, []) ∧
    decode .blockTrailer [0x1A#8, 0#8, 0#8, 0#8] = .ok (.blockTrailer 26#32, [])

/-! ## INIT, FINISH, the reserved opcode, and errors -/

/-- R392: the words of INIT.ENC and its operands. With a valid mode and block type it starts a session in every state,
with the hash table clear; a bad mode is UNSUPPORTED_MODE whatever the block type; a valid mode with a bad block type is
MALFORMED_HEADER; and a failed INIT leaves no session. That the start clears the block registers, of which R391 says only
"every session field", and that a failed INIT leaves the fields of R55 as they were, is the model's choice (assumption
log 7). -/
def Obligations.InitEncStartsASessionOrFails : Prop :=
  (∀ v : Word, v &&& 0x0000000B#32 = 0x00000000#32 →
    decodeCommand v = .initEnc (v.extractLsb' 8 8) (v.extractLsb' 16 8)) ∧
  ∀ (s : State) (mode btype : Byte),
    (∀ m bt, (mode, m) ∈ [(0#8, Mode.copy), (1#8, Mode.chameleon)] →
      (btype, bt) ∈ [(0#8, BlockType.bt0), (1#8, BlockType.bt1)] →
      exec (.initEnc mode btype) s = .next { s with
        active := true, err := .none, totalRead := 0#64, totalWritten := 0#64, osb := [], role := .encode, mode := m
        btype := bt, stage := .header, ks := .prepare, fin := false, flushed := false
        scr := ⟨0#8, 0#8, 0#8, 0#8⟩, k := 0, acc := [], ht := [], result := .ready, blen := 0, sig := 0#64, shift := 0
        body := [], bfinal := false, n := 0, t := 0, cidx := 0, crem := 0, dcnt := 0#32, footStart := 0#64 }) ∧
    (2 ≤ mode.toNat → exec (.initEnc mode btype) s = .next { s with
      active := false, totalRead := 0#64, totalWritten := 0#64, osb := [], result := .error
      err := .unsupportedMode }) ∧
    (mode.toNat < 2 → 2 ≤ btype.toNat → exec (.initEnc mode btype) s = .next { s with
      active := false, totalRead := 0#64, totalWritten := 0#64, osb := [], result := .error
      err := .malformedHeader }) ∧
    (∀ (t : State) (h : Half), exec (.initEnc mode btype) s = .next t → t.active = true → t.entry h = 0#32)

/-- R393: the words of INIT.DEC. It starts a decode session in every state, with the table clear and both counters 0. That
the start clears the block registers, of which R391 says only "every session field", is the model's choice (assumption
log 7). -/
def Obligations.InitDecAlwaysStartsASession : Prop :=
  (∀ v : Word, v &&& 0x0000000B#32 = 0x00000008#32 → decodeCommand v = .initDec) ∧
  ∀ s : State, ∃ t, exec .initDec s = .next t ∧ (∀ h : Half, t.entry h = 0#32) ∧
    t = { s with
      active := true, err := .none, totalRead := 0#64, totalWritten := 0#64, osb := [], role := .decode
      mode := .copy, btype := .bt0, stage := .header, ks := .prepare, fin := false, flushed := false
      scr := ⟨0#8, 0#8, 0#8, 0#8⟩, k := 0, acc := [], ht := [], result := .ready, blen := 0, sig := 0#64, shift := 0
      body := [], bfinal := false, n := 0, t := 0, cidx := 0, crem := 0, dcnt := 0#32, footStart := 0#64 }

/-- R400: with no session, PROCESS, FINISH and the reserved opcode set RESULT and ERR and change nothing else; and only
then do they overwrite a code that is set. -/
def Obligations.NoSessionCommandsOnlyRaise : Prop :=
  ∀ (i : Instr) (s : State), sessionCommand i s →
    (s.active = false → exec i s = .next { s with result := .error, err := .invalidStateTransition }) ∧
    (∀ t, exec i s = .next t → s.err ≠ .none → t.err ≠ s.err → s.active = false)

/-- R433: in a dead session PROCESS, FINISH and the reserved opcode answer ERROR, change nothing and keep the first
code; a step that changes the code is an INIT or a hardware reset; and both clear it. -/
def Obligations.LatchedErrorStaysUntilInitOrReset : Prop :=
  (∀ (i : Instr) (s : State), sessionCommand i s → s.active = true → s.err ≠ .none →
    exec i s = .next { s with result := .error }) ∧
  (∀ s t : State, s.active = true → s.err ≠ .none → step s = .next t → t.err ≠ s.err →
    (∃ v rest, s.host = .regWrite 4 s.regBase v :: rest ∧ v.extractLsb' 0 2 = 0#2) ∨
      ∃ rest, s.host = .hardwareReset :: rest) ∧
  (∀ s : State, ∃ t, exec .initDec s = .next t ∧ t.err = .none) ∧
  (∀ (s : State) (mode btype : Byte), mode.toNat < 2 → btype.toNat < 2 →
    ∃ t, exec (.initEnc mode btype) s = .next t ∧ t.err = .none) ∧
  (∀ (s : State) (rest : List HostAccess), s.host = .hardwareReset :: rest →
    ∃ t, step s = .next t ∧ t.err = .none ∧ t.active = false)

/-- R407: the words of FINISH. It commits a stream whose footer is complete and drained; in any other live, healthy
session it is INVALID_STATE_TRANSITION; with no session and in a dead one it answers as every command does. It writes no
byte. -/
def Obligations.FinishCommitsOnlyACompleteStream : Prop :=
  (∀ v : Word, v &&& 0x00000003#32 = 0x00000002#32 → decodeCommand v = .finish) ∧
  ∀ s : State,
    (s.active = false → exec .finish s = .next { s with result := .error, err := .invalidStateTransition }) ∧
    (s.active = true → s.err ≠ .none → exec .finish s = .next { s with result := .error }) ∧
    (s.active = true → s.err = .none → (s.stage = .footer ∧ s.fin = true ∧ s.osb = []) →
      exec .finish s = .next { s with stage := .finished, result := .ready }) ∧
    (s.active = true → s.err = .none → ¬(s.stage = .footer ∧ s.fin = true ∧ s.osb = []) →
      exec .finish s = .next { s with err := .invalidStateTransition, result := .error })

/-- R408: the words of the reserved opcode, and its error: it kills a live session. -/
def Obligations.ReservedOpcodeKillsALiveSession : Prop :=
  (∀ v : Word, v &&& 0x00000003#32 = 0x00000003#32 → decodeCommand v = .reserved) ∧
  ∀ s : State,
    (s.active = false → exec .reserved s = .next { s with result := .error, err := .invalidStateTransition }) ∧
    (s.active = true → s.err ≠ .none → exec .reserved s = .next { s with result := .error }) ∧
    (s.active = true → s.err = .none →
      exec .reserved s = .next { s with result := .error, err := .invalidStateTransition })

/-- R103, R35, R36: INIT, FINISH and the reserved opcode touch no host memory and no view register. -/
def Obligations.OnlyProcessTouchesMemoryAndViews : Prop :=
  ∀ (i : Instr) (s t : State), i.isCommand = true → (∀ flush, i ≠ .process flush) → exec i s = .next t →
    sameOutside s t

/-! ## PROCESS -/

/-- R204, R201: a bridge read of n bytes. If the bridge and the view hold n, it answers the staged bytes and then the
view's next ones in stream order, and empties the bridge; if not, it stages the whole view behind the bytes already
staged, and fails. -/
def Obligations.BridgeReadsInStreamOrder : Prop :=
  ∀ (s : State) (n : Nat), s.k ≤ n → n ≤ 4 →
    (n ≤ s.k + s.inAvail →
      readUnit n s = .ok
        (s.scr.bytes.take s.k ++
          (List.range (n - s.k)).map fun i => s.readByte (viewAddr s.inBase (s.inPos + BitVec.ofNat 32 i)))
        { s with
          k := 0, inPos := s.inPos + BitVec.ofNat 32 (n - s.k)
          totalRead := s.totalRead + BitVec.ofNat 64 (n - s.k) }) ∧
    (s.k + s.inAvail < n → ∃ t, readUnit n s = .insufficient t ∧ t.inAvail = 0 ∧
      t = { s with
        k := s.k + s.inAvail, inPos := s.inPos + BitVec.ofNat 32 s.inAvail
        totalRead := s.totalRead + BitVec.ofNat 64 s.inAvail, scr := t.scr } ∧
      t.scr.bytes.take t.k = s.scr.bytes.take s.k ++
        (List.range s.inAvail).map fun i => s.readByte (viewAddr s.inBase (s.inPos + BitVec.ofNat 32 i)))

/-- R203, R202: Drain moves the first `m` staged bytes, in order, to the next `m` addresses of the output view, with `m`
the smaller of what is staged and what fits; it changes no other byte and nothing but the OSB, OUT_POS and
TOTAL_WRITTEN. -/
def Obligations.DrainWritesTheStagedBytes : Prop :=
  ∀ (s : State) (m : Nat), m = min s.osb.length s.outAvail → s.mem.wf = true →
    drain s = { s with
      osb := s.osb.drop m, outPos := s.outPos + BitVec.ofNat 32 m
      totalWritten := s.totalWritten + BitVec.ofNat 64 m, mem := (drain s).mem } ∧
    (∀ i < m, s.osb[i]? = some ((drain s).readByte (viewAddr s.outBase (s.outPos + BitVec.ofNat 32 i)))) ∧
    (∀ addr : Word, (∀ i < m, addr ≠ viewAddr s.outBase (s.outPos + BitVec.ofNat 32 i)) →
      (drain s).readByte addr = s.readByte addr) ∧
    (drain s).mem.wf = true

/-- R402: the words of PROCESS, and its entry checks in their order: no session, a latched error, a finished session;
otherwise the loop runs. The views are apart, as R477 asks of every PROCESS, and the loop's outcome is refused where it
reached an address with no memory (R106, I23). -/
def Obligations.ProcessEntryChecksInOrder : Prop :=
  (∀ v : Word, v &&& 0x00000003#32 = 0x00000001#32 → decodeCommand v = .process (v.getLsbD 2)) ∧
  ∀ (flush : Bool) (s : State), s.viewsOverlap = false →
    (s.active = false →
      exec (.process flush) s = .next { s with result := .error, err := .invalidStateTransition }) ∧
    (s.active = true → s.err ≠ .none → exec (.process flush) s = .next { s with result := .error }) ∧
    (s.active = true → s.err = .none → s.stage = .finished →
      exec (.process flush) s = .next { s with err := .invalidStateTransition, result := .error }) ∧
    (s.active = true → s.err = .none → s.stage ≠ .finished →
      exec (.process flush) s = onBackedMemory s (processLoop (processTurns s) flush s))

/-- R477, R102, I22: the regions overlap exactly when an unconsumed input byte and a free output byte have one host
address; every PROCESS issued then is refused, whatever the session, and no other command or PROCESS is refused so. That
the refusal comes before the answers of R400 and R402 (no session, a latched error, a finished session), and that an empty
region overlaps nothing, is the model's choice (assumption log 5). -/
def Obligations.OverlappingViewsAreRefused : Prop :=
  (∀ s : State, s.viewsOverlap = true ↔
    ∃ p q : Nat, p < s.inAvail ∧ q < s.outAvail ∧
      viewAddr s.inBase (s.inPos + BitVec.ofNat 32 p) = viewAddr s.outBase (s.outPos + BitVec.ofNat 32 q)) ∧
  (∀ (flush : Bool) (s : State), s.viewsOverlap = true → exec (.process flush) s = .refused .overlappingViews) ∧
  (∀ (i : Instr) (s : State), exec i s = .refused .overlappingViews →
    (∃ flush, i = .process flush) ∧ s.viewsOverlap = true)

/-- R350, R403: the first PROCESS of an encoder. With the input view empty and no flush it writes the 8 header bytes to
the output view, if they fit, and stalls on input with the first block open; with less room it writes what fits, keeps
the rest in the OSB, and stalls on output. -/
def Obligations.FirstProcessWritesTheHeader : Prop :=
  ∀ s : State, entersLoop s → viewsBacked s → s.mem.wf = true → s.role = .encode → s.stage = .header → s.osb = [] →
    s.fin = false → s.k = 0 → s.inAvail = 0 →
    ∃ t, exec (.process false) s = .next t ∧ t.stage = .blocks ∧ t.inPos = s.inPos ∧ t.totalRead = s.totalRead ∧
      (∀ i < min 8 s.outAvail,
        some (t.readByte (viewAddr s.outBase (s.outPos + BitVec.ofNat 32 i))) = s.headerBytes[i]?) ∧
      (8 ≤ s.outAvail → t.result = .stallIn ∧ t.osb = [] ∧ t.outPos = s.outPos + 8#32 ∧
        t.totalWritten = s.totalWritten + 8#64 ∧ t.blen = 0 ∧ t.shift = 0 ∧ t.sig = 0#64 ∧ t.body = [] ∧
        t.ks = if s.mode = .chameleon then .readChunk else .copyBytes) ∧
      (s.outAvail < 8 → t.result = .stallOut ∧ t.osb = s.headerBytes.drop s.outAvail ∧ t.ks = .prepare ∧
        t.outPos = s.outPos + BitVec.ofNat 32 s.outAvail)

/-- R405, R409: a PROCESS that enters its loop always answers, with one of the four results, in every state, reachable
or not: the loop ends in a next state `t`, and PROCESS answers it, refused exactly where `t` has moved a byte with no
memory behind it (I23). With memory behind both views it answers. The spec infers it ("So PROCESS always returns; no
command hangs."). -/
def Obligations.ProcessAlwaysAnswers : Prop :=
  ∀ (flush : Bool) (s : State), entersLoop s →
    ∃ t, processLoop (processTurns s) flush s = .next t ∧
      (t.result = .ready ∨ t.result = .stallIn ∨ t.result = .stallOut ∨ t.result = .error) ∧
      (viewsBacked s → exec (.process flush) s = .next t) ∧
      (s.movedBytesBacked t = true → exec (.process flush) s = .next t) ∧
      (s.movedBytesBacked t = false → exec (.process flush) s = .refused .noMemory)

/-- R405: with a bytes available in the input view, the loop returns within 4a + 8 micro-steps (the loop is given that
many turns, and a turn runs at most one micro-step). The spec infers the bound from its rules ("The loop then runs at most
4a + 8 micro-steps before it returns"). -/
def Obligations.ProcessReturnsWithinTheBound : Prop :=
  ∀ (flush : Bool) (s : State), s.Inv → entersLoop s →
    ∃ t, processLoop (4 * s.inAvail + 8) flush s = .next t ∧
      exec (.process flush) s = onBackedMemory s (.next t)

/-- R38, R403, R437: what each result of a PROCESS that enters its loop says about the OSB, the views, FIN and ERR. Of the
OSB the spec infers it ("After a command that returned READY, STALL_ON_INPUT or ERROR, PEND = 0"), from the loop; a PROCESS
that is answered at its entry keeps FIN and the bytes staged (`ProcessEntryChecksInOrder`, assumption log 14). -/
def Obligations.ProcessResultSaysWhatIsPending : Prop :=
  ∀ (flush : Bool) (s t : State), entersLoop s → exec (.process flush) s = .next t →
    (t.result = .ready → t.fin = true ∧ t.osb = [] ∧ t.err = .none) ∧
    (t.result = .stallIn → t.fin = false ∧ t.osb = [] ∧ t.inAvail = 0 ∧ t.err = .none) ∧
    (t.result = .stallOut → t.osb ≠ [] ∧ t.outAvail = 0 ∧ t.err = .none) ∧
    (t.result = .error → t.fin = false ∧ t.osb = [] ∧ t.err ≠ .none)

/-- R35, R36, R52 (5), R103, R104, R322, R481: PROCESS advances IN_POS and TOTAL_READ by one count, within the input
view, and OUT_POS and TOTAL_WRITTEN by another, within the output view; every byte it moved has memory behind it (R106);
it changes no byte of memory but those it put in the output view; and it keeps every other register of the host. -/
def Obligations.ProcessMovesOnlyItsViews : Prop :=
  ∀ (flush : Bool) (s t : State), exec (.process flush) s = .next t →
    ∃ a b : Nat, a ≤ s.inAvail ∧ b ≤ s.outAvail ∧
      t.inPos = s.inPos + BitVec.ofNat 32 a ∧ t.totalRead = s.totalRead + BitVec.ofNat 64 a ∧
      t.outPos = s.outPos + BitVec.ofNat 32 b ∧ t.totalWritten = s.totalWritten + BitVec.ofNat 64 b ∧
      (∀ p < a, s.backed (viewAddr s.inBase (s.inPos + BitVec.ofNat 32 p)) = true) ∧
      (∀ p < b, s.backed (viewAddr s.outBase (s.outPos + BitVec.ofNat 32 p)) = true) ∧
      (∀ addr : Word, (∀ p < b, addr ≠ viewAddr s.outBase (s.outPos + BitVec.ofNat 32 p)) →
        t.readByte addr = s.readByte addr) ∧
      t.inBase = s.inBase ∧ t.inCap = s.inCap ∧ t.outBase = s.outBase ∧ t.outCap = s.outCap ∧
      t.active = s.active ∧ t.role = s.role ∧ t.regBase = s.regBase ∧ t.memMap = s.memMap ∧ t.host = s.host ∧
      t.readData = s.readData

/-- R404, R42, R43, R312: what a PROCESS leaves alone inside the session: an encoder's PROCESS the mode, the block type
and every decoder field; a decoder's PROCESS every encoder field; a COPY encoder's the hash table. -/
def Obligations.ProcessLeavesTheOtherRoleAlone : Prop :=
  ∀ (flush : Bool) (s t : State), exec (.process flush) s = .next t →
    (s.role = .encode → t.mode = s.mode ∧ t.btype = s.btype ∧ t.bfinal = s.bfinal ∧ t.n = s.n ∧ t.t = s.t ∧
      t.cidx = s.cidx ∧ t.crem = s.crem ∧ t.dcnt = s.dcnt ∧ t.acc = s.acc ∧ t.footStart = s.footStart) ∧
    (s.role = .decode → t.shift = s.shift ∧ t.body = s.body ∧ t.flushed = s.flushed) ∧
    (s.role = .encode → s.mode = .copy → t.ht = s.ht)

/-- R411: with the footer complete and before FINISH (stage 2), a PROCESS that enters its loop only drains: READY at once with nothing staged; otherwise the state is
Drain's, with READY or STALL_ON_OUTPUT by whether all of it fits, and no input is consumed. The spec infers it from R403
("PROCESS returns READY at once. It consumes no input and writes no output."). -/
def Obligations.ProcessAfterReadyOnlyDrains : Prop :=
  ∀ (flush : Bool) (s : State), entersLoop s → s.stage = .footer → s.fin = true →
    (s.osb = [] → exec (.process flush) s = .next { s with result := .ready }) ∧
    (s.osb ≠ [] → ∃ t, t = { drain s with result := if s.osb.length ≤ s.outAvail then .ready else .stallOut } ∧
      (viewsBacked s → exec (.process flush) s = .next t) ∧ exec (.process flush) s = onBackedMemory s (.next t) ∧
      t.inPos = s.inPos ∧ t.totalRead = s.totalRead ∧ t.osb = s.osb.drop s.outAvail ∧
      t.outPos = s.outPos + BitVec.ofNat 32 (min s.osb.length s.outAvail))

/-- R50, R357: outside INIT the stream stage never goes back. -/
def Obligations.StageNeverGoesBack : Prop :=
  ∀ (i : Instr) (s t : State), ((∃ flush, i = .process flush) ∨ i = .finish ∨ i = .reserved) → exec i s = .next t →
    stageNumber s.stage ≤ stageNumber t.stage

/-- R410, R203: output fragmentation. Cut the output view at `mid`; if PROCESS then stalls on output, giving the view
its whole capacity back and issuing PROCESS again ends in the very state of one PROCESS with the whole view. The spec
infers it ("each micro-step is a function of the session state and of the next stream bytes, never of where a view
ends"). -/
def Obligations.OutputViewMayBeCutAnywhere : Prop :=
  ∀ (flush : Bool) (s t : State) (mid : Word), entersLoop s → s.outPos.toNat ≤ mid.toNat →
    mid.toNat ≤ s.outCap.toNat → exec (.process flush) { s with outCap := mid } = .next t → t.result = .stallOut →
    exec (.process flush) { t with outCap := s.outCap } = exec (.process flush) s

/-- R410, R240, R204: input fragmentation. Cut the input view at `mid`; if PROCESS without flush then stalls on input,
offering the rest and issuing PROCESS again ends in the state of one PROCESS with the whole view, but for scratch bytes
that no longer count; or both are refused, at an address with no memory (I23). The spec infers it, with the sentence
quoted at OutputViewMayBeCutAnywhere. -/
def Obligations.InputViewMayBeCutAnywhere : Prop :=
  ∀ (flush : Bool) (s t : State) (mid : Word), s.Inv → entersLoop s → s.inPos.toNat ≤ mid.toNat →
    mid.toNat ≤ s.inCap.toNat → exec (.process false) { s with inCap := mid } = .next t → t.result = .stallIn →
    (∃ u v, exec (.process flush) s = .next u ∧ exec (.process flush) { t with inCap := s.inCap } = .next v ∧
      v.sameButDeadScratch u) ∨
    (exec (.process flush) s = .refused .noMemory ∧
      exec (.process flush) { t with inCap := s.inCap } = .refused .noMemory)

/-! ## The micro-step and the stream's tokens -/

/-- R404, R3: when the token due has been read, the micro-step runs the decoded instruction on the state after the
read. R275, R277: and the two steps of a CHAMELEON decoder that read no token: after the block's last chunk it goes to the
tail, and with no tail to the trailer, changing nothing else. -/
def Obligations.MicroStepRunsDecodedToken : Prop :=
  (∀ (flush : Bool) (s t : State) (ctx : Context) (unit : List Byte) (i : Instr), s.tokenDue = some ctx →
    readUnit ctx.unitLength s = .ok unit t → decode ctx (ctx.tokenBytes t unit) = .ok (i, []) →
    microStep flush s = afterToken (exec i t)) ∧
  ∀ (flush : Bool) (s : State), s.role = .decode → s.stage = .blocks → s.mode = .chameleon →
    (s.ks = .readChunk → s.cidx = s.n → microStep flush s = .cont { s with ks := .readTail }) ∧
    (s.ks = .readTail → s.t = 0 → microStep flush s = .cont { s with ks := .trailer })

/-- R353, R274, R355: while a longer record is not complete, the micro-step only gathers the unit just read; a
signature's unit is counted in `s.dcnt`. -/
def Obligations.LongRecordsAreGatheredByUnits : Prop :=
  ∀ (flush : Bool) (s t : State) (ctx : Context) (unit : List Byte), s.tokenDue = some ctx →
    readUnit ctx.unitLength s = .ok unit t → ctx.isGathered = true → (t.acc ++ unit).length < ctx.length →
    microStep flush s = .cont { t with
      acc := t.acc ++ unit
      dcnt := if ctx = .streamHeader ∨ ctx = .streamFooter then t.dcnt else t.dcnt + 4#32 }

/-- R206: a decoder's short read stalls without flush; with flush it raises MALFORMED_HEADER in the stream header and
TRUNCATED_STREAM everywhere else, a COPY body byte included. -/
def Obligations.DecoderShortReadStallsOrRaises : Prop :=
  (∀ (s t : State) (ctx : Context), s.tokenDue = some ctx → readUnit ctx.unitLength s = .insufficient t →
    microStep false s = .stallInput t ∧
    microStep true s = .raised { t with
      result := .error, err := if ctx = .streamHeader then .malformedHeader else .truncatedStream }) ∧
  (∀ s t : State, s.role = .decode → s.stage = .blocks → s.mode = .copy → s.ks = .copyBytes → s.crem ≠ 0 →
    readUnit 1 s = .insufficient t →
    microStep false s = .stallInput t ∧ microStep true s = .raised { t with result := .error, err := .truncatedStream })

/-- R354: the header checks in their order, each with its code; and R353's move to the blocks when all pass. -/
def Obligations.StreamHeaderChecksInOrder : Prop :=
  ∀ (s : State) (version : BitVec 24) (mode btype : Byte) (rsvd : BitVec 24),
    (version ≠ 0x000001#24 → exec (.streamHeader version mode btype rsvd) s =
      .next { s with acc := [], result := .error, err := .malformedHeader }) ∧
    (version = 0x000001#24 → 2 ≤ mode.toNat → exec (.streamHeader version mode btype rsvd) s =
      .next { s with acc := [], result := .error, err := .unsupportedMode }) ∧
    (version = 0x000001#24 → mode.toNat < 2 → 2 ≤ btype.toNat → exec (.streamHeader version mode btype rsvd) s =
      .next { s with acc := [], result := .error, err := .malformedHeader }) ∧
    (version = 0x000001#24 → mode.toNat < 2 → btype.toNat < 2 → rsvd ≠ 0#24 →
      exec (.streamHeader version mode btype rsvd) s =
        .next { s with acc := [], result := .error, err := .malformedHeader }) ∧
    (version = 0x000001#24 → rsvd = 0#24 →
      ∀ m bt, (mode, m) ∈ [(0#8, Mode.copy), (1#8, Mode.chameleon)] →
        (btype, bt) ∈ [(0#8, BlockType.bt0), (1#8, BlockType.bt1)] →
        exec (.streamHeader version mode btype rsvd) s =
          .next { s with acc := [], mode := m, btype := bt, stage := .blocks, ks := .prepare })

/-- R317: the block header's checks, and the registers a good header sets in each mode. -/
def Obligations.BlockHeaderIsCheckedAndSetsTheBlock : Prop :=
  ∀ (s : State) (len : Half) (final : Bool) (rsvd : BitVec 15) (blk : Nat),
    (s.btype = .bt0 ∧ blk = 128 ∨ s.btype = .bt1 ∧ blk = 256) →
    ((rsvd ≠ 0#15 ∨ blk < len.toNat ∨ (final = false ∧ len.toNat ≠ blk)) →
      exec (.blockHeader len final rsvd) s = .next { s with result := .error, err := .malformedHeader }) ∧
    (rsvd = 0#15 → len.toNat ≤ blk → (final = false → len.toNat = blk) → s.mode = .chameleon →
      exec (.blockHeader len final rsvd) s = .next { s with
        blen := len.toNat, bfinal := final, dcnt := 0#32, n := len.toNat / 4, t := len.toNat % 4, cidx := 0
        acc := [], ks := .checkSig }) ∧
    (rsvd = 0#15 → len.toNat ≤ blk → (final = false → len.toNat = blk) → s.mode = .copy →
      exec (.blockHeader len final rsvd) s = .next { s with
        blen := len.toNat, bfinal := final, dcnt := 0#32, crem := len.toNat, ks := .copyBytes })

/-- R274: a complete signature word, of either width. That exec of a 64-flag signature counts its last 4 bytes only, because
the first 4 were counted when they were gathered, is the model's choice (assumption log 8). -/
def Obligations.SignatureWordIsKept : Prop :=
  ∀ s : State,
    (∀ flags : Word, exec (.signatureW32 flags) s = .next { s with
      dcnt := s.dcnt + 4#32, sig := flags.setWidth 64, acc := [], ks := .readChunk }) ∧
    (∀ flags : DWord, exec (.signatureW64 flags) s = .next { s with
      dcnt := s.dcnt + 4#32, sig := flags, acc := [], ks := .readChunk })

/-- R278, R272: a reference outputs its bucket's value, for every index, and writes no bucket. -/
def Obligations.ReferenceOutputsItsBucket : Prop :=
  ∀ (s : State) (h : Half), exec (.reference h) s = .next { s with
    dcnt := s.dcnt + 2#32, osb := s.osb ++ bytesLE 4 (s.entry h).toNat, cidx := s.cidx + 1 }

/-- R276: a literal is output, and its bucket, and no other, now holds it. -/
def Obligations.LiteralIsOutputAndRemembered : Prop :=
  ∀ (s : State) (c : Word), ∃ t, exec (.literal c) s = .next t ∧
    t = { s with dcnt := s.dcnt + 4#32, osb := s.osb ++ bytesLE 4 c.toNat, cidx := s.cidx + 1, ht := t.ht } ∧
    (s.ht.wf = true → t.entry (chunkHash c) = c ∧ t.ht.wf = true) ∧
    ∀ g : Half, g ≠ chunkHash c → t.entry g = s.entry g

/-- R276, R278, R239: a literal, and then a reference to its hash, output the chunk twice. -/
def Obligations.ReferenceRepeatsTheLiteral : Prop :=
  ∀ (s : State) (c : Word), s.ht.wf = true →
    ∃ t, runTokens [.literal c, .reference (chunkHash c)] s = .next t ∧
      t.osb = s.osb ++ chunkBytes c ++ chunkBytes c ∧ t.dcnt = s.dcnt + 6#32

/-- R277: the tail is output as it is; the hash table is not written. -/
def Obligations.TailIsOutputVerbatim : Prop :=
  ∀ (s : State) (bytes : List Byte), exec (.tail bytes) s = .next { s with
    dcnt := s.dcnt + BitVec.ofNat 32 bytes.length, osb := s.osb ++ bytes, ks := .trailer }

/-- R320: the trailer must be the count of body bytes read; after the final block the footer follows. -/
def Obligations.BlockTrailerMustMatch : Prop :=
  ∀ (s : State) (count : Word),
    (count ≠ s.dcnt → exec (.blockTrailer count) s = .next { s with result := .error, err := .malformedHeader }) ∧
    (count = s.dcnt → s.bfinal = true →
      exec (.blockTrailer count) s = .next { s with stage := .footer, footStart := s.totalRead, acc := [] }) ∧
    (count = s.dcnt → s.bfinal = false → exec (.blockTrailer count) s = .next { s with ks := .prepare })

/-- R355: both counts of the footer are checked against the decoder's own. -/
def Obligations.StreamFooterMustMatch : Prop :=
  ∀ (s : State) (origLen encLen : DWord),
    ((origLen ≠ s.totalWritten ∨ encLen ≠ s.footStart) → exec (.streamFooter origLen encLen) s =
      .next { s with acc := [], result := .error, err := .malformedHeader }) ∧
    (origLen = s.totalWritten → encLen = s.footStart →
      exec (.streamFooter origLen encLen) s = .next { s with acc := [], fin := true })

/-- R273: signature bits at or above the chunk count change nothing that the decoder reads or writes in READ_CHUNK. -/
def Obligations.SpareSignatureBitsAreIgnored : Prop :=
  ∀ (flush : Bool) (s : State) (sig : DWord), s.role = .decode → s.stage = .blocks → s.mode = .chameleon →
    s.ks = .readChunk → s.cidx ≤ s.n → (∀ i < s.n, sig.getLsbD i = s.sig.getLsbD i) →
    (∀ t, microStep flush s = .cont t → microStep flush { s with sig := sig } = .cont { t with sig := sig }) ∧
    (∀ t, microStep flush s = .stallInput t →
      microStep flush { s with sig := sig } = .stallInput { t with sig := sig }) ∧
    (∀ t, microStep flush s = .raised t → microStep flush { s with sig := sig } = .raised { t with sig := sig })

/-! ## The encoder -/

/-- R233: the hash of a chunk, and the collision of chunks that differ in bit 31 only, which the spec infers ("Because
0x9D6EF916 is even"). -/
def Obligations.HashIsTheTopHalfOfTheProduct : Prop :=
  (∀ c : Word, (chunkHash c).toNat = c.toNat * 0x9D6EF916 % 2 ^ 32 / 2 ^ 16) ∧
  (∀ c : Word, chunkHash (c + 0x80000000#32) = chunkHash c)

/-- R239, R241, R237, R238: lock-step. Let an encoder and a decoder hold the same table. Encode any chunks that the
signature has room for, and run the chosen tokens in the decoder: its table is the encoder's, its output is the chunks,
the encoder's payload is the tokens' encodings, the decoder has counted exactly that payload, and flag j says whether
token j is a reference. The spec infers the lock-step ("HT is the same as after the decoder has decoded the same chunks
from the encoder's output"). -/
def Obligations.EncoderAndDecoderKeepLockStep : Prop :=
  ∀ (chunks : List Word) (e d : State), e.ht = d.ht → e.shift + chunks.length ≤ 64 →
    (∀ j, e.shift ≤ j → e.sig.getLsbD j = false) →
    ∃ d', runTokens (encodeChunks chunks e).1 d = .next d' ∧ d'.ht = (encodeChunks chunks e).2.ht ∧
      d'.osb = d.osb ++ chunks.flatMap chunkBytes ∧
      (encodeChunks chunks e).2.body = e.body ++ (encodeChunks chunks e).1.flatMap encode ∧
      d'.dcnt = d.dcnt + BitVec.ofNat 32 ((encodeChunks chunks e).1.flatMap encode).length ∧
      d'.cidx = d.cidx + chunks.length ∧
      ∀ j i, (encodeChunks chunks e).1[j]? = some i →
        ((encodeChunks chunks e).2.sig.getLsbD (e.shift + j) = true ↔ i.context = .reference)

/-- R316, R144, R149: what CloseBlock stages reads back: a block header with the block's length and FINAL bit, then the
body (in a CHAMELEON block the signature and the payload), then a trailer with the body's length; and what else it writes. -/
def Obligations.ClosedBlockReadsBack : Prop :=
  ∀ (s : State) (final : Bool), s.blen < 2 ^ 16 → s.blockBody.length < 2 ^ 32 →
    decode .blockHeader (closeBlock final s).osb =
      .ok (.blockHeader (BitVec.ofNat 16 s.blen) final 0#15, (closeBlock final s).osb.drop 4) ∧
    ((closeBlock final s).osb.drop 4).take s.blockBody.length = s.blockBody ∧
    decode .blockTrailer ((closeBlock final s).osb.drop (4 + s.blockBody.length)) =
      .ok (.blockTrailer (BitVec.ofNat 32 s.blockBody.length), []) ∧
    (s.mode = .chameleon → s.blockBody = bytesLE (s.groupWidth / 8) s.sig.toNat ++ s.body) ∧
    (s.mode = .copy → s.blockBody = s.body) ∧
    closeBlock true s = { s with osb := (closeBlock true s).osb, flushed := true, stage := .footer } ∧
    closeBlock false s = { s with osb := (closeBlock false s).osb, ks := .prepare }

/-- R350, R353: the encoder's first micro-step stages its header and opens the blocks, and writes nothing else; the header
is one that every decoder accepts, and the decoder then has the encoder's mode and block type. -/
def Obligations.EncoderHeaderIsAccepted : Prop :=
  ∀ (flush : Bool) (e d : State), e.role = .encode → e.stage = .header →
    ∃ t i, microStep flush e = .cont t ∧ t = { e with osb := t.osb, stage := .blocks, ks := .prepare } ∧
      decode .streamHeader t.osb = .ok (i, []) ∧ WellFormed i = true ∧
      exec i d = .next { d with acc := [], mode := e.mode, btype := e.btype, stage := .blocks, ks := .prepare }

/-- R351, R153: the footer an encoder writes carries its two counters, and completes the session's footer. -/
def Obligations.EncoderFooterCarriesTheCounters : Prop :=
  ∀ (flush : Bool) (s : State), s.role = .encode → s.stage = .footer →
    ∃ osb, microStep flush s = .cont { s with osb := osb, fin := true } ∧
      decode .streamFooter osb = .ok (.streamFooter s.totalRead s.totalWritten, [])

/-- R234, R235, R313: a new block starts with the block registers clear and the hash table as it was, in both modes. At
CHECK_SIGNATURE_STATE a full signature closes the block as non-final (`ClosedBlockReadsBack` says what
that stages and writes), with no look at the input; otherwise the next chunk is read. -/
def Obligations.FullSignatureClosesTheBlock : Prop :=
  ∀ (flush : Bool) (s : State), s.role = .encode → s.stage = .blocks →
    (s.ks = .prepare → microStep flush s = .cont { s with
      blen := 0, sig := 0#64, shift := 0, body := []
      ks := if s.mode = .chameleon then .checkSig else .copyBytes }) ∧
    (s.mode = .chameleon → s.ks = .checkSig →
      (s.shift = s.groupWidth → microStep flush s = .cont (closeBlock false s)) ∧
      (s.shift ≠ s.groupWidth → microStep flush s = .cont { s with ks := .readChunk }))

/-- R236, R237, R238, R314: the encoder's READ_CHUNK. A chunk that can be read is encoded: a hit is a 1 flag and a
reference, a miss a 0 flag, a literal and a table write. With fewer than 4 bytes left the encoder stalls without flush;
with flush it closes the final block (`ClosedBlockReadsBack` says what that stages and writes), whose payload ends with
all the bytes staged, and hashes none of them. -/
def Obligations.FlushClosesTheFinalBlock : Prop :=
  ∀ s : State, s.role = .encode → s.stage = .blocks → s.mode = .chameleon → s.ks = .readChunk →
    (∀ (flush : Bool) (bytes : List Byte) (t : State), readUnit 4 s = .ok bytes t →
      microStep flush s = .cont (encodeChunk bytes t) ∧
      (t.entry (chunkHash (chunkOf bytes)) = chunkOf bytes → encodeChunk bytes t = { t with
        sig := t.sig ||| (1#64 <<< t.shift), shift := t.shift + 1
        body := t.body ++ bytesLE 2 (chunkHash (chunkOf bytes)).toNat, blen := t.blen + 4, ks := .checkSig }) ∧
      (t.entry (chunkHash (chunkOf bytes)) ≠ chunkOf bytes → encodeChunk bytes t = { t with
        shift := t.shift + 1, body := t.body ++ bytes, blen := t.blen + 4, ks := .checkSig
        ht := (t.setEntry (chunkHash (chunkOf bytes)) (chunkOf bytes)).ht })) ∧
    (s.k + s.inAvail < 4 → ∃ (u : State) (tail : List Byte), readUnit 4 s = .insufficient u ∧
      tail.length = s.k + s.inAvail ∧ tail = s.scr.bytes.take s.k ++ (takeBytes s.inAvail s).1 ∧
      u = { s with
        inPos := u.inPos, totalRead := s.totalRead + BitVec.ofNat 64 s.inAvail, scr := u.scr, k := s.k + s.inAvail } ∧
      u.inAvail = 0 ∧ microStep false s = .stallInput u ∧
      microStep true s = .cont (closeBlock true { u with
        k := 0, body := s.body ++ tail, blen := s.blen + tail.length }))

/-- R318: a COPY encoder absorbs one byte a micro-step, unhashed; closes a full block; and with the view empty stalls,
or with flush closes the final block. -/
def Obligations.CopyEncoderAbsorbsByBytes : Prop :=
  ∀ (flush : Bool) (s : State), s.role = .encode → s.stage = .blocks → s.mode = .copy → s.ks = .copyBytes → s.k = 0 →
    (s.blen = s.blockBytes → microStep flush s = .cont (closeBlock false s)) ∧
    (s.blen ≠ s.blockBytes → 0 < s.inAvail → microStep flush s = .cont { s with
      inPos := s.inPos + 1#32, totalRead := s.totalRead + 1#64
      body := s.body ++ [s.readByte (viewAddr s.inBase s.inPos)], blen := s.blen + 1 }) ∧
    (s.blen ≠ s.blockBytes → s.inAvail = 0 →
      microStep false s = .stallInput s ∧ microStep true s = .cont (closeBlock true s))

/-- R319: a COPY decoder outputs one body byte a micro-step, as it is, and then goes to the trailer. -/
def Obligations.CopyDecoderOutputsByBytes : Prop :=
  ∀ (flush : Bool) (s : State), s.role = .decode → s.stage = .blocks → s.mode = .copy → s.ks = .copyBytes → s.k = 0 →
    (s.crem = 0 → microStep flush s = .cont { s with ks := .trailer }) ∧
    (s.crem ≠ 0 → 0 < s.inAvail → microStep flush s = .cont { s with
      inPos := s.inPos + 1#32, totalRead := s.totalRead + 1#64
      osb := s.osb ++ [s.readByte (viewAddr s.inBase s.inPos)], dcnt := s.dcnt + 1#32, crem := s.crem - 1 })

/-! ## Invariants -/

/-- The reset state meets the invariant. -/
def Obligations.ResetMeetsTheInvariant : Prop := State.reset.Inv

/-- R41, R49, R52, R357, R404: every step keeps the invariant, whatever access of the host it runs. -/
def Obligations.EveryStepKeepsTheInvariant : Prop :=
  ∀ s t : State, s.Inv → step s = .next t → t.Inv

/-- R404, R436: no micro-step of a state that meets the invariant, with the OSB drained and the footer not complete,
finds an unassigned resumption point: an error it raises is never INVALID_STATE_TRANSITION. The spec infers it ("The last
row cannot be reached from any state the other rules produce."). -/
def Obligations.UnassignedPointsAreUnreachable : Prop :=
  ∀ (flush : Bool) (s t : State), s.Inv → entersLoop s → s.osb = [] → s.fin = false →
    microStep flush s = .raised t →
    t.err = .malformedHeader ∨ t.err = .unsupportedMode ∨ t.err = .truncatedStream

/-- R55, R40, R448: "No rule reads an unspecified field". Two states without a session that agree on all that R471 fixes,
on memory, on the platform's map and on the host's accesses take steps that agree on it too, and a fault or a refusal
alike; and where a session starts, the two states are one ("no state of the old session affects the new one"). So the
model's choice of reset values (assumption log 2) shows in no such step. -/
def Obligations.UnspecifiedFieldsAreNotReadWithoutASession : Prop :=
  ∀ s t : State, sameSpecifiedReset s t → s.active = false →
    (∀ s', step s = .next s' → ∃ t', step t = .next t' ∧ t'.active = s'.active ∧ t'.statusWord = s'.statusWord ∧
      t'.readData = s'.readData ∧ t'.mem = s'.mem ∧ t'.host = s'.host ∧ t'.pendWord = s'.pendWord ∧
      (s'.active = false → sameSpecifiedReset s' t') ∧ (s'.active = true → t' = s')) ∧
    (∀ r, step s = .refused r → step t = .refused r) ∧ (∀ f, step s ≠ .fault f)
end

