-- ==== Sys2Proof/Laws/Encoding.lean ====
section
/-!
SUPPORT. Little-endian assembly (R10): `LE` and `bytesLE` undo each other.
-/

namespace Sys2Proof

@[simp] theorem bytesLE_length (n v : Nat) : (bytesLE n v).length = n := by
  induction n generalizing v with
  | zero => rfl
  | succ n ih => simp [bytesLE, ih]

/-- `LE(bytesLE_n(v))` is `v` modulo `2^(8n)`. -/
theorem leNat_bytesLE (n v : Nat) : leNat (bytesLE n v) = v % 256 ^ n := by
  induction n generalizing v with
  | zero => simp [bytesLE, leNat, Nat.mod_one]
  | succ n ih =>
    simp only [bytesLE, leNat, ih, BitVec.toNat_ofNat]
    rw [show 256 ^ (n + 1) = 256 * 256 ^ n by ring, Nat.mod_mul]

/-- A word's own bytes give the word back. -/
theorem leWord_bytesLE {w n : Nat} (v : BitVec w) (h : 2 ^ w ≤ 256 ^ n) : leWord w (bytesLE n v.toNat) = v := by
  rw [leWord, leNat_bytesLE, Nat.mod_eq_of_lt (Nat.lt_of_lt_of_le v.isLt h)]
  simp

/-- `LE` of a list with more bytes after it. -/
theorem leNat_append (as bs : List Byte) : leNat (as ++ bs) = leNat as + 256 ^ as.length * leNat bs := by
  induction as with
  | nil => simp [leNat]
  | cons a as ih =>
    simp only [List.cons_append, leNat, ih, List.length_cons]
    ring

theorem leNat_lt (bs : List Byte) : leNat bs < 256 ^ bs.length := by
  induction bs with
  | nil => simp [leNat]
  | cons b bs ih =>
    have := b.isLt
    simp only [leNat, List.length_cons, Nat.pow_succ]
    omega

/-- The bytes of `LE(bs)` are `bs`. -/
theorem bytesLE_leNat (bs : List Byte) : bytesLE bs.length (leNat bs) = bs := by
  induction bs with
  | nil => rfl
  | cons b bs ih =>
    have hb := b.isLt
    simp only [List.length_cons, bytesLE, leNat]
    congr 1
    · apply BitVec.eq_of_toNat_eq
      simp only [BitVec.toNat_ofNat]
      omega
    · rw [show (b.toNat + 256 * leNat bs) / 256 = leNat bs by omega, ih]

end Sys2Proof
end

