-- ==== Sys2Proof/Laws/Sparse.lean ====
section
/-!
SUPPORT. The sparse maps behind host memory and the hash table: a write is read back, leaves every other key alone, and
keeps the canonical form.
-/

namespace Sys2Proof.Machine

variable {w : Nat}

/-- A write leaves every other key alone, in any list. -/
theorem sparseGet_set_other (m : List (Nat × BitVec w)) (a b : Nat) (v : BitVec w) (h : b ≠ a) :
    sparseGet (sparseSet m a v) b = sparseGet m b := by
  induction m with
  | nil => by_cases hv : v = 0#w <;> simp [sparseSet, sparseGet, hv, h]
  | cons p rest ih =>
    obtain ⟨key, u⟩ := p
    by_cases hlt : a < key
    · by_cases hv : v = 0#w <;> simp [sparseSet, sparseGet, hlt, hv, h]
    · by_cases heq : a = key
      · subst heq
        by_cases hv : v = 0#w <;> simp [sparseSet, sparseGet, hv, h]
      · simp [sparseSet, sparseGet, hlt, heq, ih]

/-- Below the keys of a canonical list nothing is listed. -/
theorem sparseGet_of_wf_below {bound lo a : Nat} {m : List (Nat × BitVec w)} (h : sparseWf bound lo m = true)
    (ha : a < lo) : sparseGet m a = 0#w := by
  induction m generalizing lo with
  | nil => rfl
  | cons p rest ih =>
    obtain ⟨key, u⟩ := p
    simp only [sparseWf, Bool.and_eq_true, decide_eq_true_eq] at h
    have hne : a ≠ key := by omega
    simp only [sparseGet, hne, if_false]
    exact ih h.2 (by omega)

/-- A canonical list stays canonical from a lower key on. -/
theorem sparseWf_mono {bound lo lo' : Nat} {m : List (Nat × BitVec w)} (h : sparseWf bound lo m = true)
    (hle : lo' ≤ lo) : sparseWf bound lo' m = true := by
  cases m with
  | nil => rfl
  | cons p rest =>
    obtain ⟨key, u⟩ := p
    simp only [sparseWf, Bool.and_eq_true, decide_eq_true_eq] at h ⊢
    exact ⟨⟨⟨by omega, h.1.1.2⟩, h.1.2⟩, h.2⟩

/-- A write is read back from a canonical list. -/
theorem sparseGet_set_same {bound lo : Nat} (m : List (Nat × BitVec w)) (a : Nat) (v : BitVec w)
    (h : sparseWf bound lo m = true) : sparseGet (sparseSet m a v) a = v := by
  induction m generalizing lo with
  | nil => by_cases hv : v = 0#w <;> simp [sparseSet, sparseGet, hv]
  | cons p rest ih =>
    obtain ⟨key, u⟩ := p
    simp only [sparseWf, Bool.and_eq_true, decide_eq_true_eq] at h
    by_cases hlt : a < key
    · by_cases hv : v = 0#w
      · have hne : a ≠ key := by omega
        simp [sparseSet, sparseGet, hlt, hv, hne, sparseGet_of_wf_below h.2 (show a < key + 1 by omega)]
      · simp [sparseSet, sparseGet, hlt, hv]
    · by_cases heq : a = key
      · subst heq
        by_cases hv : v = 0#w
        · simp [sparseSet, hv, sparseGet_of_wf_below h.2 (show a < a + 1 by omega)]
        · simp [sparseSet, sparseGet, hv]
      · simp [sparseSet, sparseGet, hlt, heq, ih h.2]

/-- A write inside the bound keeps the canonical form. -/
theorem sparseWf_set {bound lo a : Nat} {m : List (Nat × BitVec w)} (v : BitVec w) (h : sparseWf bound lo m = true)
    (hlo : lo ≤ a) (hb : a < bound) : sparseWf bound lo (sparseSet m a v) = true := by
  induction m generalizing lo with
  | nil => by_cases hv : v = 0#w <;> simp [sparseSet, sparseWf, hv, hlo, hb]
  | cons p rest ih =>
    obtain ⟨key, u⟩ := p
    have h' := h
    simp only [sparseWf, Bool.and_eq_true, decide_eq_true_eq] at h'
    obtain ⟨⟨⟨h₁, h₂⟩, h₃⟩, h₄⟩ := h'
    by_cases hlt : a < key
    · by_cases hv : v = 0#w
      · simp [sparseSet, hlt, hv, h]
      · simp only [sparseSet, hlt, hv, if_true, if_false, sparseWf, Bool.and_eq_true, decide_eq_true_eq]
        exact ⟨⟨⟨hlo, hb⟩, by simpa using hv⟩, ⟨⟨by omega, h₂⟩, h₃⟩, h₄⟩
    · by_cases heq : a = key
      · subst heq
        by_cases hv : v = 0#w
        · simp only [sparseSet, hv, if_true, Nat.lt_irrefl, if_false]
          exact sparseWf_mono h₄ (by omega)
        · simp only [sparseSet, hv, if_true, Nat.lt_irrefl, if_false, sparseWf, Bool.and_eq_true,
            decide_eq_true_eq]
          exact ⟨⟨⟨hlo, hb⟩, by simpa using hv⟩, h₄⟩
      · simp only [sparseSet, hlt, heq, if_false, sparseWf, Bool.and_eq_true, decide_eq_true_eq]
        exact ⟨⟨⟨h₁, h₂⟩, h₃⟩, ih h₄ (by omega)⟩

/-- A byte written is read back where memory has its canonical form. -/
theorem readByte_writeByte_same (s : State) (a : Word) (v : Byte) (h : s.mem.wf = true) :
    (s.writeByte a v).readByte a = v :=
  sparseGet_set_same s.mem a.toNat v h

/-- A write leaves every other byte of memory alone. -/
theorem readByte_writeByte_other (s : State) (a b : Word) (v : Byte) (h : b ≠ a) :
    (s.writeByte a v).readByte b = s.readByte b :=
  sparseGet_set_other s.mem a.toNat b.toNat v (fun e => h (BitVec.eq_of_toNat_eq e))

/-- A byte write keeps memory canonical. -/
theorem writeByte_memWf (s : State) (a : Word) (v : Byte) (h : s.mem.wf = true) : (s.writeByte a v).mem.wf = true :=
  sparseWf_set v h (Nat.zero_le _) a.isLt

/-- An entry written is read back where the table has its canonical form. -/
theorem entry_setEntry_same (s : State) (h : Half) (v : Word) (hw : s.ht.wf = true) : (s.setEntry h v).entry h = v :=
  sparseGet_set_same s.ht h.toNat v hw

/-- A table write leaves every other bucket alone. -/
theorem entry_setEntry_other (s : State) (h g : Half) (v : Word) (hne : g ≠ h) : (s.setEntry h v).entry g = s.entry g :=
  sparseGet_set_other s.ht h.toNat g.toNat v (fun e => hne (BitVec.eq_of_toNat_eq e))

/-- A table write keeps the table canonical. -/
theorem setEntry_htWf (s : State) (h : Half) (v : Word) (hw : s.ht.wf = true) : (s.setEntry h v).ht.wf = true :=
  sparseWf_set v hw (Nat.zero_le _) h.isLt

end Sys2Proof.Machine
end

