-- ==== Sys2Proof/Laws/State.lean ====
section
/-!
SUPPORT. One lemma per field per named update of the state: what the update writes, and that it leaves the field alone.
-/

namespace Sys2Proof.Machine

/-! ## writeByte: MemWrite (R12) -/

@[simp] theorem writeByte_inBase (s : State) (a : Word) (v : Byte) : (s.writeByte a v).inBase = s.inBase := rfl
@[simp] theorem writeByte_inPos (s : State) (a : Word) (v : Byte) : (s.writeByte a v).inPos = s.inPos := rfl
@[simp] theorem writeByte_inCap (s : State) (a : Word) (v : Byte) : (s.writeByte a v).inCap = s.inCap := rfl
@[simp] theorem writeByte_outBase (s : State) (a : Word) (v : Byte) : (s.writeByte a v).outBase = s.outBase := rfl
@[simp] theorem writeByte_outPos (s : State) (a : Word) (v : Byte) : (s.writeByte a v).outPos = s.outPos := rfl
@[simp] theorem writeByte_outCap (s : State) (a : Word) (v : Byte) : (s.writeByte a v).outCap = s.outCap := rfl
@[simp] theorem writeByte_result (s : State) (a : Word) (v : Byte) : (s.writeByte a v).result = s.result := rfl
@[simp] theorem writeByte_err (s : State) (a : Word) (v : Byte) : (s.writeByte a v).err = s.err := rfl
@[simp] theorem writeByte_active (s : State) (a : Word) (v : Byte) : (s.writeByte a v).active = s.active := rfl
@[simp] theorem writeByte_role (s : State) (a : Word) (v : Byte) : (s.writeByte a v).role = s.role := rfl
@[simp] theorem writeByte_mode (s : State) (a : Word) (v : Byte) : (s.writeByte a v).mode = s.mode := rfl
@[simp] theorem writeByte_btype (s : State) (a : Word) (v : Byte) : (s.writeByte a v).btype = s.btype := rfl
@[simp] theorem writeByte_stage (s : State) (a : Word) (v : Byte) : (s.writeByte a v).stage = s.stage := rfl
@[simp] theorem writeByte_ks (s : State) (a : Word) (v : Byte) : (s.writeByte a v).ks = s.ks := rfl
@[simp] theorem writeByte_fin (s : State) (a : Word) (v : Byte) : (s.writeByte a v).fin = s.fin := rfl
@[simp] theorem writeByte_flushed (s : State) (a : Word) (v : Byte) : (s.writeByte a v).flushed = s.flushed := rfl
@[simp] theorem writeByte_totalRead (s : State) (a : Word) (v : Byte) : (s.writeByte a v).totalRead = s.totalRead := rfl
@[simp] theorem writeByte_totalWritten (s : State) (a : Word) (v : Byte) : (s.writeByte a v).totalWritten = s.totalWritten := rfl
@[simp] theorem writeByte_osb (s : State) (a : Word) (v : Byte) : (s.writeByte a v).osb = s.osb := rfl
@[simp] theorem writeByte_scr (s : State) (a : Word) (v : Byte) : (s.writeByte a v).scr = s.scr := rfl
@[simp] theorem writeByte_k (s : State) (a : Word) (v : Byte) : (s.writeByte a v).k = s.k := rfl
@[simp] theorem writeByte_blen (s : State) (a : Word) (v : Byte) : (s.writeByte a v).blen = s.blen := rfl
@[simp] theorem writeByte_sig (s : State) (a : Word) (v : Byte) : (s.writeByte a v).sig = s.sig := rfl
@[simp] theorem writeByte_shift (s : State) (a : Word) (v : Byte) : (s.writeByte a v).shift = s.shift := rfl
@[simp] theorem writeByte_body (s : State) (a : Word) (v : Byte) : (s.writeByte a v).body = s.body := rfl
@[simp] theorem writeByte_bfinal (s : State) (a : Word) (v : Byte) : (s.writeByte a v).bfinal = s.bfinal := rfl
@[simp] theorem writeByte_n (s : State) (a : Word) (v : Byte) : (s.writeByte a v).n = s.n := rfl
@[simp] theorem writeByte_t (s : State) (a : Word) (v : Byte) : (s.writeByte a v).t = s.t := rfl
@[simp] theorem writeByte_cidx (s : State) (a : Word) (v : Byte) : (s.writeByte a v).cidx = s.cidx := rfl
@[simp] theorem writeByte_crem (s : State) (a : Word) (v : Byte) : (s.writeByte a v).crem = s.crem := rfl
@[simp] theorem writeByte_dcnt (s : State) (a : Word) (v : Byte) : (s.writeByte a v).dcnt = s.dcnt := rfl
@[simp] theorem writeByte_acc (s : State) (a : Word) (v : Byte) : (s.writeByte a v).acc = s.acc := rfl
@[simp] theorem writeByte_footStart (s : State) (a : Word) (v : Byte) : (s.writeByte a v).footStart = s.footStart := rfl
@[simp] theorem writeByte_ht (s : State) (a : Word) (v : Byte) : (s.writeByte a v).ht = s.ht := rfl
@[simp] theorem writeByte_mem (s : State) (a : Word) (v : Byte) : (s.writeByte a v).mem = sparseSet s.mem a.toNat v := rfl
@[simp] theorem writeByte_regBase (s : State) (a : Word) (v : Byte) : (s.writeByte a v).regBase = s.regBase := rfl
@[simp] theorem writeByte_memMap (s : State) (a : Word) (v : Byte) : (s.writeByte a v).memMap = s.memMap := rfl
@[simp] theorem writeByte_host (s : State) (a : Word) (v : Byte) : (s.writeByte a v).host = s.host := rfl
@[simp] theorem writeByte_readData (s : State) (a : Word) (v : Byte) : (s.writeByte a v).readData = s.readData := rfl

/-! ## setEntry: a hash-table write (R40) -/

@[simp] theorem setEntry_inBase (s : State) (h : Half) (v : Word) : (s.setEntry h v).inBase = s.inBase := rfl
@[simp] theorem setEntry_inPos (s : State) (h : Half) (v : Word) : (s.setEntry h v).inPos = s.inPos := rfl
@[simp] theorem setEntry_inCap (s : State) (h : Half) (v : Word) : (s.setEntry h v).inCap = s.inCap := rfl
@[simp] theorem setEntry_outBase (s : State) (h : Half) (v : Word) : (s.setEntry h v).outBase = s.outBase := rfl
@[simp] theorem setEntry_outPos (s : State) (h : Half) (v : Word) : (s.setEntry h v).outPos = s.outPos := rfl
@[simp] theorem setEntry_outCap (s : State) (h : Half) (v : Word) : (s.setEntry h v).outCap = s.outCap := rfl
@[simp] theorem setEntry_result (s : State) (h : Half) (v : Word) : (s.setEntry h v).result = s.result := rfl
@[simp] theorem setEntry_err (s : State) (h : Half) (v : Word) : (s.setEntry h v).err = s.err := rfl
@[simp] theorem setEntry_active (s : State) (h : Half) (v : Word) : (s.setEntry h v).active = s.active := rfl
@[simp] theorem setEntry_role (s : State) (h : Half) (v : Word) : (s.setEntry h v).role = s.role := rfl
@[simp] theorem setEntry_mode (s : State) (h : Half) (v : Word) : (s.setEntry h v).mode = s.mode := rfl
@[simp] theorem setEntry_btype (s : State) (h : Half) (v : Word) : (s.setEntry h v).btype = s.btype := rfl
@[simp] theorem setEntry_stage (s : State) (h : Half) (v : Word) : (s.setEntry h v).stage = s.stage := rfl
@[simp] theorem setEntry_ks (s : State) (h : Half) (v : Word) : (s.setEntry h v).ks = s.ks := rfl
@[simp] theorem setEntry_fin (s : State) (h : Half) (v : Word) : (s.setEntry h v).fin = s.fin := rfl
@[simp] theorem setEntry_flushed (s : State) (h : Half) (v : Word) : (s.setEntry h v).flushed = s.flushed := rfl
@[simp] theorem setEntry_totalRead (s : State) (h : Half) (v : Word) : (s.setEntry h v).totalRead = s.totalRead := rfl
@[simp] theorem setEntry_totalWritten (s : State) (h : Half) (v : Word) : (s.setEntry h v).totalWritten = s.totalWritten := rfl
@[simp] theorem setEntry_osb (s : State) (h : Half) (v : Word) : (s.setEntry h v).osb = s.osb := rfl
@[simp] theorem setEntry_scr (s : State) (h : Half) (v : Word) : (s.setEntry h v).scr = s.scr := rfl
@[simp] theorem setEntry_k (s : State) (h : Half) (v : Word) : (s.setEntry h v).k = s.k := rfl
@[simp] theorem setEntry_blen (s : State) (h : Half) (v : Word) : (s.setEntry h v).blen = s.blen := rfl
@[simp] theorem setEntry_sig (s : State) (h : Half) (v : Word) : (s.setEntry h v).sig = s.sig := rfl
@[simp] theorem setEntry_shift (s : State) (h : Half) (v : Word) : (s.setEntry h v).shift = s.shift := rfl
@[simp] theorem setEntry_body (s : State) (h : Half) (v : Word) : (s.setEntry h v).body = s.body := rfl
@[simp] theorem setEntry_bfinal (s : State) (h : Half) (v : Word) : (s.setEntry h v).bfinal = s.bfinal := rfl
@[simp] theorem setEntry_n (s : State) (h : Half) (v : Word) : (s.setEntry h v).n = s.n := rfl
@[simp] theorem setEntry_t (s : State) (h : Half) (v : Word) : (s.setEntry h v).t = s.t := rfl
@[simp] theorem setEntry_cidx (s : State) (h : Half) (v : Word) : (s.setEntry h v).cidx = s.cidx := rfl
@[simp] theorem setEntry_crem (s : State) (h : Half) (v : Word) : (s.setEntry h v).crem = s.crem := rfl
@[simp] theorem setEntry_dcnt (s : State) (h : Half) (v : Word) : (s.setEntry h v).dcnt = s.dcnt := rfl
@[simp] theorem setEntry_acc (s : State) (h : Half) (v : Word) : (s.setEntry h v).acc = s.acc := rfl
@[simp] theorem setEntry_footStart (s : State) (h : Half) (v : Word) : (s.setEntry h v).footStart = s.footStart := rfl
@[simp] theorem setEntry_ht (s : State) (h : Half) (v : Word) : (s.setEntry h v).ht = sparseSet s.ht h.toNat v := rfl
@[simp] theorem setEntry_mem (s : State) (h : Half) (v : Word) : (s.setEntry h v).mem = s.mem := rfl
@[simp] theorem setEntry_regBase (s : State) (h : Half) (v : Word) : (s.setEntry h v).regBase = s.regBase := rfl
@[simp] theorem setEntry_memMap (s : State) (h : Half) (v : Word) : (s.setEntry h v).memMap = s.memMap := rfl
@[simp] theorem setEntry_host (s : State) (h : Half) (v : Word) : (s.setEntry h v).host = s.host := rfl
@[simp] theorem setEntry_readData (s : State) (h : Half) (v : Word) : (s.setEntry h v).readData = s.readData := rfl

/-! ## raiseError: raising an error (R432) -/

@[simp] theorem raiseError_inBase (c : ErrCode) (s : State) : (raiseError c s).inBase = s.inBase := rfl
@[simp] theorem raiseError_inPos (c : ErrCode) (s : State) : (raiseError c s).inPos = s.inPos := rfl
@[simp] theorem raiseError_inCap (c : ErrCode) (s : State) : (raiseError c s).inCap = s.inCap := rfl
@[simp] theorem raiseError_outBase (c : ErrCode) (s : State) : (raiseError c s).outBase = s.outBase := rfl
@[simp] theorem raiseError_outPos (c : ErrCode) (s : State) : (raiseError c s).outPos = s.outPos := rfl
@[simp] theorem raiseError_outCap (c : ErrCode) (s : State) : (raiseError c s).outCap = s.outCap := rfl
@[simp] theorem raiseError_result (c : ErrCode) (s : State) : (raiseError c s).result = .error := rfl
@[simp] theorem raiseError_err (c : ErrCode) (s : State) : (raiseError c s).err = c := rfl
@[simp] theorem raiseError_active (c : ErrCode) (s : State) : (raiseError c s).active = s.active := rfl
@[simp] theorem raiseError_role (c : ErrCode) (s : State) : (raiseError c s).role = s.role := rfl
@[simp] theorem raiseError_mode (c : ErrCode) (s : State) : (raiseError c s).mode = s.mode := rfl
@[simp] theorem raiseError_btype (c : ErrCode) (s : State) : (raiseError c s).btype = s.btype := rfl
@[simp] theorem raiseError_stage (c : ErrCode) (s : State) : (raiseError c s).stage = s.stage := rfl
@[simp] theorem raiseError_ks (c : ErrCode) (s : State) : (raiseError c s).ks = s.ks := rfl
@[simp] theorem raiseError_fin (c : ErrCode) (s : State) : (raiseError c s).fin = s.fin := rfl
@[simp] theorem raiseError_flushed (c : ErrCode) (s : State) : (raiseError c s).flushed = s.flushed := rfl
@[simp] theorem raiseError_totalRead (c : ErrCode) (s : State) : (raiseError c s).totalRead = s.totalRead := rfl
@[simp] theorem raiseError_totalWritten (c : ErrCode) (s : State) : (raiseError c s).totalWritten = s.totalWritten := rfl
@[simp] theorem raiseError_osb (c : ErrCode) (s : State) : (raiseError c s).osb = s.osb := rfl
@[simp] theorem raiseError_scr (c : ErrCode) (s : State) : (raiseError c s).scr = s.scr := rfl
@[simp] theorem raiseError_k (c : ErrCode) (s : State) : (raiseError c s).k = s.k := rfl
@[simp] theorem raiseError_blen (c : ErrCode) (s : State) : (raiseError c s).blen = s.blen := rfl
@[simp] theorem raiseError_sig (c : ErrCode) (s : State) : (raiseError c s).sig = s.sig := rfl
@[simp] theorem raiseError_shift (c : ErrCode) (s : State) : (raiseError c s).shift = s.shift := rfl
@[simp] theorem raiseError_body (c : ErrCode) (s : State) : (raiseError c s).body = s.body := rfl
@[simp] theorem raiseError_bfinal (c : ErrCode) (s : State) : (raiseError c s).bfinal = s.bfinal := rfl
@[simp] theorem raiseError_n (c : ErrCode) (s : State) : (raiseError c s).n = s.n := rfl
@[simp] theorem raiseError_t (c : ErrCode) (s : State) : (raiseError c s).t = s.t := rfl
@[simp] theorem raiseError_cidx (c : ErrCode) (s : State) : (raiseError c s).cidx = s.cidx := rfl
@[simp] theorem raiseError_crem (c : ErrCode) (s : State) : (raiseError c s).crem = s.crem := rfl
@[simp] theorem raiseError_dcnt (c : ErrCode) (s : State) : (raiseError c s).dcnt = s.dcnt := rfl
@[simp] theorem raiseError_acc (c : ErrCode) (s : State) : (raiseError c s).acc = s.acc := rfl
@[simp] theorem raiseError_footStart (c : ErrCode) (s : State) : (raiseError c s).footStart = s.footStart := rfl
@[simp] theorem raiseError_ht (c : ErrCode) (s : State) : (raiseError c s).ht = s.ht := rfl
@[simp] theorem raiseError_mem (c : ErrCode) (s : State) : (raiseError c s).mem = s.mem := rfl
@[simp] theorem raiseError_regBase (c : ErrCode) (s : State) : (raiseError c s).regBase = s.regBase := rfl
@[simp] theorem raiseError_memMap (c : ErrCode) (s : State) : (raiseError c s).memMap = s.memMap := rfl
@[simp] theorem raiseError_host (c : ErrCode) (s : State) : (raiseError c s).host = s.host := rfl
@[simp] theorem raiseError_readData (c : ErrCode) (s : State) : (raiseError c s).readData = s.readData := rfl

/-! ## emit: Emit (R279) -/

@[simp] theorem emit_inBase (bs : List Byte) (s : State) : (emit bs s).inBase = s.inBase := rfl
@[simp] theorem emit_inPos (bs : List Byte) (s : State) : (emit bs s).inPos = s.inPos := rfl
@[simp] theorem emit_inCap (bs : List Byte) (s : State) : (emit bs s).inCap = s.inCap := rfl
@[simp] theorem emit_outBase (bs : List Byte) (s : State) : (emit bs s).outBase = s.outBase := rfl
@[simp] theorem emit_outPos (bs : List Byte) (s : State) : (emit bs s).outPos = s.outPos := rfl
@[simp] theorem emit_outCap (bs : List Byte) (s : State) : (emit bs s).outCap = s.outCap := rfl
@[simp] theorem emit_result (bs : List Byte) (s : State) : (emit bs s).result = s.result := rfl
@[simp] theorem emit_err (bs : List Byte) (s : State) : (emit bs s).err = s.err := rfl
@[simp] theorem emit_active (bs : List Byte) (s : State) : (emit bs s).active = s.active := rfl
@[simp] theorem emit_role (bs : List Byte) (s : State) : (emit bs s).role = s.role := rfl
@[simp] theorem emit_mode (bs : List Byte) (s : State) : (emit bs s).mode = s.mode := rfl
@[simp] theorem emit_btype (bs : List Byte) (s : State) : (emit bs s).btype = s.btype := rfl
@[simp] theorem emit_stage (bs : List Byte) (s : State) : (emit bs s).stage = s.stage := rfl
@[simp] theorem emit_ks (bs : List Byte) (s : State) : (emit bs s).ks = s.ks := rfl
@[simp] theorem emit_fin (bs : List Byte) (s : State) : (emit bs s).fin = s.fin := rfl
@[simp] theorem emit_flushed (bs : List Byte) (s : State) : (emit bs s).flushed = s.flushed := rfl
@[simp] theorem emit_totalRead (bs : List Byte) (s : State) : (emit bs s).totalRead = s.totalRead := rfl
@[simp] theorem emit_totalWritten (bs : List Byte) (s : State) : (emit bs s).totalWritten = s.totalWritten := rfl
@[simp] theorem emit_osb (bs : List Byte) (s : State) : (emit bs s).osb = s.osb ++ bs := rfl
@[simp] theorem emit_scr (bs : List Byte) (s : State) : (emit bs s).scr = s.scr := rfl
@[simp] theorem emit_k (bs : List Byte) (s : State) : (emit bs s).k = s.k := rfl
@[simp] theorem emit_blen (bs : List Byte) (s : State) : (emit bs s).blen = s.blen := rfl
@[simp] theorem emit_sig (bs : List Byte) (s : State) : (emit bs s).sig = s.sig := rfl
@[simp] theorem emit_shift (bs : List Byte) (s : State) : (emit bs s).shift = s.shift := rfl
@[simp] theorem emit_body (bs : List Byte) (s : State) : (emit bs s).body = s.body := rfl
@[simp] theorem emit_bfinal (bs : List Byte) (s : State) : (emit bs s).bfinal = s.bfinal := rfl
@[simp] theorem emit_n (bs : List Byte) (s : State) : (emit bs s).n = s.n := rfl
@[simp] theorem emit_t (bs : List Byte) (s : State) : (emit bs s).t = s.t := rfl
@[simp] theorem emit_cidx (bs : List Byte) (s : State) : (emit bs s).cidx = s.cidx := rfl
@[simp] theorem emit_crem (bs : List Byte) (s : State) : (emit bs s).crem = s.crem := rfl
@[simp] theorem emit_dcnt (bs : List Byte) (s : State) : (emit bs s).dcnt = s.dcnt := rfl
@[simp] theorem emit_acc (bs : List Byte) (s : State) : (emit bs s).acc = s.acc := rfl
@[simp] theorem emit_footStart (bs : List Byte) (s : State) : (emit bs s).footStart = s.footStart := rfl
@[simp] theorem emit_ht (bs : List Byte) (s : State) : (emit bs s).ht = s.ht := rfl
@[simp] theorem emit_mem (bs : List Byte) (s : State) : (emit bs s).mem = s.mem := rfl
@[simp] theorem emit_regBase (bs : List Byte) (s : State) : (emit bs s).regBase = s.regBase := rfl
@[simp] theorem emit_memMap (bs : List Byte) (s : State) : (emit bs s).memMap = s.memMap := rfl
@[simp] theorem emit_host (bs : List Byte) (s : State) : (emit bs s).host = s.host := rfl
@[simp] theorem emit_readData (bs : List Byte) (s : State) : (emit bs s).readData = s.readData := rfl

/-! ## inByte: InByte (R201) -/

@[simp] theorem inByte_inBase (s : State) : (inByte s).2.inBase = s.inBase := rfl
@[simp] theorem inByte_inPos (s : State) : (inByte s).2.inPos = s.inPos + 1#32 := rfl
@[simp] theorem inByte_inCap (s : State) : (inByte s).2.inCap = s.inCap := rfl
@[simp] theorem inByte_outBase (s : State) : (inByte s).2.outBase = s.outBase := rfl
@[simp] theorem inByte_outPos (s : State) : (inByte s).2.outPos = s.outPos := rfl
@[simp] theorem inByte_outCap (s : State) : (inByte s).2.outCap = s.outCap := rfl
@[simp] theorem inByte_result (s : State) : (inByte s).2.result = s.result := rfl
@[simp] theorem inByte_err (s : State) : (inByte s).2.err = s.err := rfl
@[simp] theorem inByte_active (s : State) : (inByte s).2.active = s.active := rfl
@[simp] theorem inByte_role (s : State) : (inByte s).2.role = s.role := rfl
@[simp] theorem inByte_mode (s : State) : (inByte s).2.mode = s.mode := rfl
@[simp] theorem inByte_btype (s : State) : (inByte s).2.btype = s.btype := rfl
@[simp] theorem inByte_stage (s : State) : (inByte s).2.stage = s.stage := rfl
@[simp] theorem inByte_ks (s : State) : (inByte s).2.ks = s.ks := rfl
@[simp] theorem inByte_fin (s : State) : (inByte s).2.fin = s.fin := rfl
@[simp] theorem inByte_flushed (s : State) : (inByte s).2.flushed = s.flushed := rfl
@[simp] theorem inByte_totalRead (s : State) : (inByte s).2.totalRead = s.totalRead + 1#64 := rfl
@[simp] theorem inByte_totalWritten (s : State) : (inByte s).2.totalWritten = s.totalWritten := rfl
@[simp] theorem inByte_osb (s : State) : (inByte s).2.osb = s.osb := rfl
@[simp] theorem inByte_scr (s : State) : (inByte s).2.scr = s.scr := rfl
@[simp] theorem inByte_k (s : State) : (inByte s).2.k = s.k := rfl
@[simp] theorem inByte_blen (s : State) : (inByte s).2.blen = s.blen := rfl
@[simp] theorem inByte_sig (s : State) : (inByte s).2.sig = s.sig := rfl
@[simp] theorem inByte_shift (s : State) : (inByte s).2.shift = s.shift := rfl
@[simp] theorem inByte_body (s : State) : (inByte s).2.body = s.body := rfl
@[simp] theorem inByte_bfinal (s : State) : (inByte s).2.bfinal = s.bfinal := rfl
@[simp] theorem inByte_n (s : State) : (inByte s).2.n = s.n := rfl
@[simp] theorem inByte_t (s : State) : (inByte s).2.t = s.t := rfl
@[simp] theorem inByte_cidx (s : State) : (inByte s).2.cidx = s.cidx := rfl
@[simp] theorem inByte_crem (s : State) : (inByte s).2.crem = s.crem := rfl
@[simp] theorem inByte_dcnt (s : State) : (inByte s).2.dcnt = s.dcnt := rfl
@[simp] theorem inByte_acc (s : State) : (inByte s).2.acc = s.acc := rfl
@[simp] theorem inByte_footStart (s : State) : (inByte s).2.footStart = s.footStart := rfl
@[simp] theorem inByte_ht (s : State) : (inByte s).2.ht = s.ht := rfl
@[simp] theorem inByte_mem (s : State) : (inByte s).2.mem = s.mem := rfl
@[simp] theorem inByte_regBase (s : State) : (inByte s).2.regBase = s.regBase := rfl
@[simp] theorem inByte_memMap (s : State) : (inByte s).2.memMap = s.memMap := rfl
@[simp] theorem inByte_host (s : State) : (inByte s).2.host = s.host := rfl
@[simp] theorem inByte_readData (s : State) : (inByte s).2.readData = s.readData := rfl

/-! ## outByte: OutByte (R202) -/

@[simp] theorem outByte_inBase (v : Byte) (s : State) : (outByte v s).inBase = s.inBase := rfl
@[simp] theorem outByte_inPos (v : Byte) (s : State) : (outByte v s).inPos = s.inPos := rfl
@[simp] theorem outByte_inCap (v : Byte) (s : State) : (outByte v s).inCap = s.inCap := rfl
@[simp] theorem outByte_outBase (v : Byte) (s : State) : (outByte v s).outBase = s.outBase := rfl
@[simp] theorem outByte_outPos (v : Byte) (s : State) : (outByte v s).outPos = s.outPos + 1#32 := rfl
@[simp] theorem outByte_outCap (v : Byte) (s : State) : (outByte v s).outCap = s.outCap := rfl
@[simp] theorem outByte_result (v : Byte) (s : State) : (outByte v s).result = s.result := rfl
@[simp] theorem outByte_err (v : Byte) (s : State) : (outByte v s).err = s.err := rfl
@[simp] theorem outByte_active (v : Byte) (s : State) : (outByte v s).active = s.active := rfl
@[simp] theorem outByte_role (v : Byte) (s : State) : (outByte v s).role = s.role := rfl
@[simp] theorem outByte_mode (v : Byte) (s : State) : (outByte v s).mode = s.mode := rfl
@[simp] theorem outByte_btype (v : Byte) (s : State) : (outByte v s).btype = s.btype := rfl
@[simp] theorem outByte_stage (v : Byte) (s : State) : (outByte v s).stage = s.stage := rfl
@[simp] theorem outByte_ks (v : Byte) (s : State) : (outByte v s).ks = s.ks := rfl
@[simp] theorem outByte_fin (v : Byte) (s : State) : (outByte v s).fin = s.fin := rfl
@[simp] theorem outByte_flushed (v : Byte) (s : State) : (outByte v s).flushed = s.flushed := rfl
@[simp] theorem outByte_totalRead (v : Byte) (s : State) : (outByte v s).totalRead = s.totalRead := rfl
@[simp] theorem outByte_totalWritten (v : Byte) (s : State) : (outByte v s).totalWritten = s.totalWritten + 1#64 := rfl
@[simp] theorem outByte_osb (v : Byte) (s : State) : (outByte v s).osb = s.osb := rfl
@[simp] theorem outByte_scr (v : Byte) (s : State) : (outByte v s).scr = s.scr := rfl
@[simp] theorem outByte_k (v : Byte) (s : State) : (outByte v s).k = s.k := rfl
@[simp] theorem outByte_blen (v : Byte) (s : State) : (outByte v s).blen = s.blen := rfl
@[simp] theorem outByte_sig (v : Byte) (s : State) : (outByte v s).sig = s.sig := rfl
@[simp] theorem outByte_shift (v : Byte) (s : State) : (outByte v s).shift = s.shift := rfl
@[simp] theorem outByte_body (v : Byte) (s : State) : (outByte v s).body = s.body := rfl
@[simp] theorem outByte_bfinal (v : Byte) (s : State) : (outByte v s).bfinal = s.bfinal := rfl
@[simp] theorem outByte_n (v : Byte) (s : State) : (outByte v s).n = s.n := rfl
@[simp] theorem outByte_t (v : Byte) (s : State) : (outByte v s).t = s.t := rfl
@[simp] theorem outByte_cidx (v : Byte) (s : State) : (outByte v s).cidx = s.cidx := rfl
@[simp] theorem outByte_crem (v : Byte) (s : State) : (outByte v s).crem = s.crem := rfl
@[simp] theorem outByte_dcnt (v : Byte) (s : State) : (outByte v s).dcnt = s.dcnt := rfl
@[simp] theorem outByte_acc (v : Byte) (s : State) : (outByte v s).acc = s.acc := rfl
@[simp] theorem outByte_footStart (v : Byte) (s : State) : (outByte v s).footStart = s.footStart := rfl
@[simp] theorem outByte_ht (v : Byte) (s : State) : (outByte v s).ht = s.ht := rfl
@[simp] theorem outByte_mem (v : Byte) (s : State) : (outByte v s).mem = sparseSet s.mem (viewAddr s.outBase s.outPos).toNat v := rfl
@[simp] theorem outByte_regBase (v : Byte) (s : State) : (outByte v s).regBase = s.regBase := rfl
@[simp] theorem outByte_memMap (v : Byte) (s : State) : (outByte v s).memMap = s.memMap := rfl
@[simp] theorem outByte_host (v : Byte) (s : State) : (outByte v s).host = s.host := rfl
@[simp] theorem outByte_readData (v : Byte) (s : State) : (outByte v s).readData = s.readData := rfl

/-! ## pack: the signature packer (R232) -/

@[simp] theorem pack_inBase (f : Bool) (s : State) : (pack f s).inBase = s.inBase := rfl
@[simp] theorem pack_inPos (f : Bool) (s : State) : (pack f s).inPos = s.inPos := rfl
@[simp] theorem pack_inCap (f : Bool) (s : State) : (pack f s).inCap = s.inCap := rfl
@[simp] theorem pack_outBase (f : Bool) (s : State) : (pack f s).outBase = s.outBase := rfl
@[simp] theorem pack_outPos (f : Bool) (s : State) : (pack f s).outPos = s.outPos := rfl
@[simp] theorem pack_outCap (f : Bool) (s : State) : (pack f s).outCap = s.outCap := rfl
@[simp] theorem pack_result (f : Bool) (s : State) : (pack f s).result = s.result := rfl
@[simp] theorem pack_err (f : Bool) (s : State) : (pack f s).err = s.err := rfl
@[simp] theorem pack_active (f : Bool) (s : State) : (pack f s).active = s.active := rfl
@[simp] theorem pack_role (f : Bool) (s : State) : (pack f s).role = s.role := rfl
@[simp] theorem pack_mode (f : Bool) (s : State) : (pack f s).mode = s.mode := rfl
@[simp] theorem pack_btype (f : Bool) (s : State) : (pack f s).btype = s.btype := rfl
@[simp] theorem pack_stage (f : Bool) (s : State) : (pack f s).stage = s.stage := rfl
@[simp] theorem pack_ks (f : Bool) (s : State) : (pack f s).ks = s.ks := rfl
@[simp] theorem pack_fin (f : Bool) (s : State) : (pack f s).fin = s.fin := rfl
@[simp] theorem pack_flushed (f : Bool) (s : State) : (pack f s).flushed = s.flushed := rfl
@[simp] theorem pack_totalRead (f : Bool) (s : State) : (pack f s).totalRead = s.totalRead := rfl
@[simp] theorem pack_totalWritten (f : Bool) (s : State) : (pack f s).totalWritten = s.totalWritten := rfl
@[simp] theorem pack_osb (f : Bool) (s : State) : (pack f s).osb = s.osb := rfl
@[simp] theorem pack_scr (f : Bool) (s : State) : (pack f s).scr = s.scr := rfl
@[simp] theorem pack_k (f : Bool) (s : State) : (pack f s).k = s.k := rfl
@[simp] theorem pack_blen (f : Bool) (s : State) : (pack f s).blen = s.blen := rfl
@[simp] theorem pack_sig (f : Bool) (s : State) : (pack f s).sig = s.sig ||| ((BitVec.ofBool f).setWidth 64 <<< s.shift) := rfl
@[simp] theorem pack_shift (f : Bool) (s : State) : (pack f s).shift = s.shift + 1 := rfl
@[simp] theorem pack_body (f : Bool) (s : State) : (pack f s).body = s.body := rfl
@[simp] theorem pack_bfinal (f : Bool) (s : State) : (pack f s).bfinal = s.bfinal := rfl
@[simp] theorem pack_n (f : Bool) (s : State) : (pack f s).n = s.n := rfl
@[simp] theorem pack_t (f : Bool) (s : State) : (pack f s).t = s.t := rfl
@[simp] theorem pack_cidx (f : Bool) (s : State) : (pack f s).cidx = s.cidx := rfl
@[simp] theorem pack_crem (f : Bool) (s : State) : (pack f s).crem = s.crem := rfl
@[simp] theorem pack_dcnt (f : Bool) (s : State) : (pack f s).dcnt = s.dcnt := rfl
@[simp] theorem pack_acc (f : Bool) (s : State) : (pack f s).acc = s.acc := rfl
@[simp] theorem pack_footStart (f : Bool) (s : State) : (pack f s).footStart = s.footStart := rfl
@[simp] theorem pack_ht (f : Bool) (s : State) : (pack f s).ht = s.ht := rfl
@[simp] theorem pack_mem (f : Bool) (s : State) : (pack f s).mem = s.mem := rfl
@[simp] theorem pack_regBase (f : Bool) (s : State) : (pack f s).regBase = s.regBase := rfl
@[simp] theorem pack_memMap (f : Bool) (s : State) : (pack f s).memMap = s.memMap := rfl
@[simp] theorem pack_host (f : Bool) (s : State) : (pack f s).host = s.host := rfl
@[simp] theorem pack_readData (f : Bool) (s : State) : (pack f s).readData = s.readData := rfl

/-! ## finishChunk: the end of a chunk token (R275) -/

@[simp] theorem finishChunk_inBase (c : Word) (s : State) : (finishChunk c s).inBase = s.inBase := rfl
@[simp] theorem finishChunk_inPos (c : Word) (s : State) : (finishChunk c s).inPos = s.inPos := rfl
@[simp] theorem finishChunk_inCap (c : Word) (s : State) : (finishChunk c s).inCap = s.inCap := rfl
@[simp] theorem finishChunk_outBase (c : Word) (s : State) : (finishChunk c s).outBase = s.outBase := rfl
@[simp] theorem finishChunk_outPos (c : Word) (s : State) : (finishChunk c s).outPos = s.outPos := rfl
@[simp] theorem finishChunk_outCap (c : Word) (s : State) : (finishChunk c s).outCap = s.outCap := rfl
@[simp] theorem finishChunk_result (c : Word) (s : State) : (finishChunk c s).result = s.result := rfl
@[simp] theorem finishChunk_err (c : Word) (s : State) : (finishChunk c s).err = s.err := rfl
@[simp] theorem finishChunk_active (c : Word) (s : State) : (finishChunk c s).active = s.active := rfl
@[simp] theorem finishChunk_role (c : Word) (s : State) : (finishChunk c s).role = s.role := rfl
@[simp] theorem finishChunk_mode (c : Word) (s : State) : (finishChunk c s).mode = s.mode := rfl
@[simp] theorem finishChunk_btype (c : Word) (s : State) : (finishChunk c s).btype = s.btype := rfl
@[simp] theorem finishChunk_stage (c : Word) (s : State) : (finishChunk c s).stage = s.stage := rfl
@[simp] theorem finishChunk_ks (c : Word) (s : State) : (finishChunk c s).ks = s.ks := rfl
@[simp] theorem finishChunk_fin (c : Word) (s : State) : (finishChunk c s).fin = s.fin := rfl
@[simp] theorem finishChunk_flushed (c : Word) (s : State) : (finishChunk c s).flushed = s.flushed := rfl
@[simp] theorem finishChunk_totalRead (c : Word) (s : State) : (finishChunk c s).totalRead = s.totalRead := rfl
@[simp] theorem finishChunk_totalWritten (c : Word) (s : State) : (finishChunk c s).totalWritten = s.totalWritten := rfl
@[simp] theorem finishChunk_osb (c : Word) (s : State) : (finishChunk c s).osb = s.osb ++ chunkBytes c := rfl
@[simp] theorem finishChunk_scr (c : Word) (s : State) : (finishChunk c s).scr = s.scr := rfl
@[simp] theorem finishChunk_k (c : Word) (s : State) : (finishChunk c s).k = s.k := rfl
@[simp] theorem finishChunk_blen (c : Word) (s : State) : (finishChunk c s).blen = s.blen := rfl
@[simp] theorem finishChunk_sig (c : Word) (s : State) : (finishChunk c s).sig = s.sig := rfl
@[simp] theorem finishChunk_shift (c : Word) (s : State) : (finishChunk c s).shift = s.shift := rfl
@[simp] theorem finishChunk_body (c : Word) (s : State) : (finishChunk c s).body = s.body := rfl
@[simp] theorem finishChunk_bfinal (c : Word) (s : State) : (finishChunk c s).bfinal = s.bfinal := rfl
@[simp] theorem finishChunk_n (c : Word) (s : State) : (finishChunk c s).n = s.n := rfl
@[simp] theorem finishChunk_t (c : Word) (s : State) : (finishChunk c s).t = s.t := rfl
@[simp] theorem finishChunk_cidx (c : Word) (s : State) : (finishChunk c s).cidx = s.cidx + 1 := rfl
@[simp] theorem finishChunk_crem (c : Word) (s : State) : (finishChunk c s).crem = s.crem := rfl
@[simp] theorem finishChunk_dcnt (c : Word) (s : State) : (finishChunk c s).dcnt = s.dcnt := rfl
@[simp] theorem finishChunk_acc (c : Word) (s : State) : (finishChunk c s).acc = s.acc := rfl
@[simp] theorem finishChunk_footStart (c : Word) (s : State) : (finishChunk c s).footStart = s.footStart := rfl
@[simp] theorem finishChunk_ht (c : Word) (s : State) : (finishChunk c s).ht = s.ht := rfl
@[simp] theorem finishChunk_mem (c : Word) (s : State) : (finishChunk c s).mem = s.mem := rfl
@[simp] theorem finishChunk_regBase (c : Word) (s : State) : (finishChunk c s).regBase = s.regBase := rfl
@[simp] theorem finishChunk_memMap (c : Word) (s : State) : (finishChunk c s).memMap = s.memMap := rfl
@[simp] theorem finishChunk_host (c : Word) (s : State) : (finishChunk c s).host = s.host := rfl
@[simp] theorem finishChunk_readData (c : Word) (s : State) : (finishChunk c s).readData = s.readData := rfl

/-! ## takeSignature: a complete signature word (R274) -/

@[simp] theorem takeSignature_inBase (f : DWord) (s : State) : (takeSignature f s).inBase = s.inBase := rfl
@[simp] theorem takeSignature_inPos (f : DWord) (s : State) : (takeSignature f s).inPos = s.inPos := rfl
@[simp] theorem takeSignature_inCap (f : DWord) (s : State) : (takeSignature f s).inCap = s.inCap := rfl
@[simp] theorem takeSignature_outBase (f : DWord) (s : State) : (takeSignature f s).outBase = s.outBase := rfl
@[simp] theorem takeSignature_outPos (f : DWord) (s : State) : (takeSignature f s).outPos = s.outPos := rfl
@[simp] theorem takeSignature_outCap (f : DWord) (s : State) : (takeSignature f s).outCap = s.outCap := rfl
@[simp] theorem takeSignature_result (f : DWord) (s : State) : (takeSignature f s).result = s.result := rfl
@[simp] theorem takeSignature_err (f : DWord) (s : State) : (takeSignature f s).err = s.err := rfl
@[simp] theorem takeSignature_active (f : DWord) (s : State) : (takeSignature f s).active = s.active := rfl
@[simp] theorem takeSignature_role (f : DWord) (s : State) : (takeSignature f s).role = s.role := rfl
@[simp] theorem takeSignature_mode (f : DWord) (s : State) : (takeSignature f s).mode = s.mode := rfl
@[simp] theorem takeSignature_btype (f : DWord) (s : State) : (takeSignature f s).btype = s.btype := rfl
@[simp] theorem takeSignature_stage (f : DWord) (s : State) : (takeSignature f s).stage = s.stage := rfl
@[simp] theorem takeSignature_ks (f : DWord) (s : State) : (takeSignature f s).ks = .readChunk := rfl
@[simp] theorem takeSignature_fin (f : DWord) (s : State) : (takeSignature f s).fin = s.fin := rfl
@[simp] theorem takeSignature_flushed (f : DWord) (s : State) : (takeSignature f s).flushed = s.flushed := rfl
@[simp] theorem takeSignature_totalRead (f : DWord) (s : State) : (takeSignature f s).totalRead = s.totalRead := rfl
@[simp] theorem takeSignature_totalWritten (f : DWord) (s : State) : (takeSignature f s).totalWritten = s.totalWritten := rfl
@[simp] theorem takeSignature_osb (f : DWord) (s : State) : (takeSignature f s).osb = s.osb := rfl
@[simp] theorem takeSignature_scr (f : DWord) (s : State) : (takeSignature f s).scr = s.scr := rfl
@[simp] theorem takeSignature_k (f : DWord) (s : State) : (takeSignature f s).k = s.k := rfl
@[simp] theorem takeSignature_blen (f : DWord) (s : State) : (takeSignature f s).blen = s.blen := rfl
@[simp] theorem takeSignature_sig (f : DWord) (s : State) : (takeSignature f s).sig = f := rfl
@[simp] theorem takeSignature_shift (f : DWord) (s : State) : (takeSignature f s).shift = s.shift := rfl
@[simp] theorem takeSignature_body (f : DWord) (s : State) : (takeSignature f s).body = s.body := rfl
@[simp] theorem takeSignature_bfinal (f : DWord) (s : State) : (takeSignature f s).bfinal = s.bfinal := rfl
@[simp] theorem takeSignature_n (f : DWord) (s : State) : (takeSignature f s).n = s.n := rfl
@[simp] theorem takeSignature_t (f : DWord) (s : State) : (takeSignature f s).t = s.t := rfl
@[simp] theorem takeSignature_cidx (f : DWord) (s : State) : (takeSignature f s).cidx = s.cidx := rfl
@[simp] theorem takeSignature_crem (f : DWord) (s : State) : (takeSignature f s).crem = s.crem := rfl
@[simp] theorem takeSignature_dcnt (f : DWord) (s : State) : (takeSignature f s).dcnt = s.dcnt + 4#32 := rfl
@[simp] theorem takeSignature_acc (f : DWord) (s : State) : (takeSignature f s).acc = [] := rfl
@[simp] theorem takeSignature_footStart (f : DWord) (s : State) : (takeSignature f s).footStart = s.footStart := rfl
@[simp] theorem takeSignature_ht (f : DWord) (s : State) : (takeSignature f s).ht = s.ht := rfl
@[simp] theorem takeSignature_mem (f : DWord) (s : State) : (takeSignature f s).mem = s.mem := rfl
@[simp] theorem takeSignature_regBase (f : DWord) (s : State) : (takeSignature f s).regBase = s.regBase := rfl
@[simp] theorem takeSignature_memMap (f : DWord) (s : State) : (takeSignature f s).memMap = s.memMap := rfl
@[simp] theorem takeSignature_host (f : DWord) (s : State) : (takeSignature f s).host = s.host := rfl
@[simp] theorem takeSignature_readData (f : DWord) (s : State) : (takeSignature f s).readData = s.readData := rfl

/-! ## sessionReset: SessionReset (R391) -/

@[simp] theorem sessionReset_inBase (s : State) : (sessionReset s).inBase = s.inBase := rfl
@[simp] theorem sessionReset_inPos (s : State) : (sessionReset s).inPos = s.inPos := rfl
@[simp] theorem sessionReset_inCap (s : State) : (sessionReset s).inCap = s.inCap := rfl
@[simp] theorem sessionReset_outBase (s : State) : (sessionReset s).outBase = s.outBase := rfl
@[simp] theorem sessionReset_outPos (s : State) : (sessionReset s).outPos = s.outPos := rfl
@[simp] theorem sessionReset_outCap (s : State) : (sessionReset s).outCap = s.outCap := rfl
@[simp] theorem sessionReset_result (s : State) : (sessionReset s).result = s.result := rfl
@[simp] theorem sessionReset_err (s : State) : (sessionReset s).err = .none := rfl
@[simp] theorem sessionReset_active (s : State) : (sessionReset s).active = false := rfl
@[simp] theorem sessionReset_role (s : State) : (sessionReset s).role = s.role := rfl
@[simp] theorem sessionReset_mode (s : State) : (sessionReset s).mode = s.mode := rfl
@[simp] theorem sessionReset_btype (s : State) : (sessionReset s).btype = s.btype := rfl
@[simp] theorem sessionReset_stage (s : State) : (sessionReset s).stage = s.stage := rfl
@[simp] theorem sessionReset_ks (s : State) : (sessionReset s).ks = s.ks := rfl
@[simp] theorem sessionReset_fin (s : State) : (sessionReset s).fin = s.fin := rfl
@[simp] theorem sessionReset_flushed (s : State) : (sessionReset s).flushed = s.flushed := rfl
@[simp] theorem sessionReset_totalRead (s : State) : (sessionReset s).totalRead = 0#64 := rfl
@[simp] theorem sessionReset_totalWritten (s : State) : (sessionReset s).totalWritten = 0#64 := rfl
@[simp] theorem sessionReset_osb (s : State) : (sessionReset s).osb = [] := rfl
@[simp] theorem sessionReset_scr (s : State) : (sessionReset s).scr = s.scr := rfl
@[simp] theorem sessionReset_k (s : State) : (sessionReset s).k = s.k := rfl
@[simp] theorem sessionReset_blen (s : State) : (sessionReset s).blen = s.blen := rfl
@[simp] theorem sessionReset_sig (s : State) : (sessionReset s).sig = s.sig := rfl
@[simp] theorem sessionReset_shift (s : State) : (sessionReset s).shift = s.shift := rfl
@[simp] theorem sessionReset_body (s : State) : (sessionReset s).body = s.body := rfl
@[simp] theorem sessionReset_bfinal (s : State) : (sessionReset s).bfinal = s.bfinal := rfl
@[simp] theorem sessionReset_n (s : State) : (sessionReset s).n = s.n := rfl
@[simp] theorem sessionReset_t (s : State) : (sessionReset s).t = s.t := rfl
@[simp] theorem sessionReset_cidx (s : State) : (sessionReset s).cidx = s.cidx := rfl
@[simp] theorem sessionReset_crem (s : State) : (sessionReset s).crem = s.crem := rfl
@[simp] theorem sessionReset_dcnt (s : State) : (sessionReset s).dcnt = s.dcnt := rfl
@[simp] theorem sessionReset_acc (s : State) : (sessionReset s).acc = s.acc := rfl
@[simp] theorem sessionReset_footStart (s : State) : (sessionReset s).footStart = s.footStart := rfl
@[simp] theorem sessionReset_ht (s : State) : (sessionReset s).ht = s.ht := rfl
@[simp] theorem sessionReset_mem (s : State) : (sessionReset s).mem = s.mem := rfl
@[simp] theorem sessionReset_regBase (s : State) : (sessionReset s).regBase = s.regBase := rfl
@[simp] theorem sessionReset_memMap (s : State) : (sessionReset s).memMap = s.memMap := rfl
@[simp] theorem sessionReset_host (s : State) : (sessionReset s).host = s.host := rfl
@[simp] theorem sessionReset_readData (s : State) : (sessionReset s).readData = s.readData := rfl

/-! ## sessionStart: SessionStart (R391) -/

@[simp] theorem sessionStart_inBase (s : State) : (sessionStart s).inBase = s.inBase := rfl
@[simp] theorem sessionStart_inPos (s : State) : (sessionStart s).inPos = s.inPos := rfl
@[simp] theorem sessionStart_inCap (s : State) : (sessionStart s).inCap = s.inCap := rfl
@[simp] theorem sessionStart_outBase (s : State) : (sessionStart s).outBase = s.outBase := rfl
@[simp] theorem sessionStart_outPos (s : State) : (sessionStart s).outPos = s.outPos := rfl
@[simp] theorem sessionStart_outCap (s : State) : (sessionStart s).outCap = s.outCap := rfl
@[simp] theorem sessionStart_result (s : State) : (sessionStart s).result = .ready := rfl
@[simp] theorem sessionStart_err (s : State) : (sessionStart s).err = s.err := rfl
@[simp] theorem sessionStart_active (s : State) : (sessionStart s).active = true := rfl
@[simp] theorem sessionStart_role (s : State) : (sessionStart s).role = s.role := rfl
@[simp] theorem sessionStart_mode (s : State) : (sessionStart s).mode = s.mode := rfl
@[simp] theorem sessionStart_btype (s : State) : (sessionStart s).btype = s.btype := rfl
@[simp] theorem sessionStart_stage (s : State) : (sessionStart s).stage = .header := rfl
@[simp] theorem sessionStart_ks (s : State) : (sessionStart s).ks = .prepare := rfl
@[simp] theorem sessionStart_fin (s : State) : (sessionStart s).fin = false := rfl
@[simp] theorem sessionStart_flushed (s : State) : (sessionStart s).flushed = false := rfl
@[simp] theorem sessionStart_totalRead (s : State) : (sessionStart s).totalRead = s.totalRead := rfl
@[simp] theorem sessionStart_totalWritten (s : State) : (sessionStart s).totalWritten = s.totalWritten := rfl
@[simp] theorem sessionStart_osb (s : State) : (sessionStart s).osb = s.osb := rfl
@[simp] theorem sessionStart_scr (s : State) : (sessionStart s).scr = ⟨0#8, 0#8, 0#8, 0#8⟩ := rfl
@[simp] theorem sessionStart_k (s : State) : (sessionStart s).k = 0 := rfl
@[simp] theorem sessionStart_blen (s : State) : (sessionStart s).blen = 0 := rfl
@[simp] theorem sessionStart_sig (s : State) : (sessionStart s).sig = 0#64 := rfl
@[simp] theorem sessionStart_shift (s : State) : (sessionStart s).shift = 0 := rfl
@[simp] theorem sessionStart_body (s : State) : (sessionStart s).body = [] := rfl
@[simp] theorem sessionStart_bfinal (s : State) : (sessionStart s).bfinal = false := rfl
@[simp] theorem sessionStart_n (s : State) : (sessionStart s).n = 0 := rfl
@[simp] theorem sessionStart_t (s : State) : (sessionStart s).t = 0 := rfl
@[simp] theorem sessionStart_cidx (s : State) : (sessionStart s).cidx = 0 := rfl
@[simp] theorem sessionStart_crem (s : State) : (sessionStart s).crem = 0 := rfl
@[simp] theorem sessionStart_dcnt (s : State) : (sessionStart s).dcnt = 0#32 := rfl
@[simp] theorem sessionStart_acc (s : State) : (sessionStart s).acc = [] := rfl
@[simp] theorem sessionStart_footStart (s : State) : (sessionStart s).footStart = 0#64 := rfl
@[simp] theorem sessionStart_ht (s : State) : (sessionStart s).ht = [] := rfl
@[simp] theorem sessionStart_mem (s : State) : (sessionStart s).mem = s.mem := rfl
@[simp] theorem sessionStart_regBase (s : State) : (sessionStart s).regBase = s.regBase := rfl
@[simp] theorem sessionStart_memMap (s : State) : (sessionStart s).memMap = s.memMap := rfl
@[simp] theorem sessionStart_host (s : State) : (sessionStart s).host = s.host := rfl
@[simp] theorem sessionStart_readData (s : State) : (sessionStart s).readData = s.readData := rfl

end Sys2Proof.Machine
end

