-- ==== Sys2Proof/Laws/Ops.lean ====
section
/-!
SUPPORT. For each shared operation of Machine/Ops.lean, what it can do, said once.
-/

namespace Sys2Proof.Machine

/-! ## InByte, repeated -/

theorem inByte_eq (s : State) :
    inByte s = (s.readByte (viewAddr s.inBase s.inPos), { s with inPos := s.inPos + 1#32, totalRead := s.totalRead + 1#64 }) :=
  rfl

theorem add_ofNat_succ {w : Nat} (x : BitVec w) (c : Nat) :
    x + 1#w + BitVec.ofNat w c = x + BitVec.ofNat w (c + 1) := by
  rw [BitVec.add_assoc, BitVec.add_comm 1#w (BitVec.ofNat w c), BitVec.ofNat_add]

/-- `takeBytes c` moves IN_POS and TOTAL_READ by `c` and nothing else. -/
theorem takeBytes_state (c : Nat) (s : State) :
    (takeBytes c s).2 =
      { s with inPos := s.inPos + BitVec.ofNat 32 c, totalRead := s.totalRead + BitVec.ofNat 64 c } := by
  induction c generalizing s with
  | zero => simp [takeBytes]
  | succ c ih =>
    simp only [takeBytes]
    rw [ih]
    simp [inByte_eq, add_ofNat_succ]

/-- `takeBytes c` returns the view's next `c` bytes in stream order. -/
theorem takeBytes_bytes (c : Nat) (s : State) :
    (takeBytes c s).1 = (List.range c).map fun i => s.readByte (viewAddr s.inBase (s.inPos + BitVec.ofNat 32 i)) := by
  induction c generalizing s with
  | zero => rfl
  | succ c ih =>
    simp only [takeBytes]
    rw [ih, List.range_succ_eq_map]
    simp only [List.map_cons, List.map_map, inByte_eq]
    congr 1
    · simp
    · apply List.map_congr_left
      intro i _
      simp [State.readByte, viewAddr, add_ofNat_succ]

@[simp] theorem takeBytes_length (c : Nat) (s : State) : (takeBytes c s).1.length = c := by
  simp [takeBytes_bytes]

/-! ## The bridge -/

@[simp] theorem scratch_bytes_length (c : Scratch) : c.bytes.length = 4 := rfl

/-- Storing at index `i` of the scratch extends the bytes staged below `i`. -/
theorem scratch_put_take (c : Scratch) (i : Nat) (v : Byte) (h : i < 4) :
    (c.put i v).bytes.take (i + 1) = c.bytes.take i ++ [v] := by
  obtain rfl | rfl | rfl | rfl : i = 0 ∨ i = 1 ∨ i = 2 ∨ i = 3 := by omega
  all_goals rfl

theorem stageByte_eq (s : State) :
    stageByte s = { s with
      inPos := s.inPos + 1#32, totalRead := s.totalRead + 1#64
      scr := s.scr.put s.k (s.readByte (viewAddr s.inBase s.inPos)), k := s.k + 1 } := rfl

/-- `stageBytes c` moves IN_POS, TOTAL_READ and the bridge count by `c`, and writes the scratch; nothing else. -/
theorem stageBytes_state (c : Nat) (s : State) :
    ∃ scr, stageBytes c s =
      { s with
        inPos := s.inPos + BitVec.ofNat 32 c, totalRead := s.totalRead + BitVec.ofNat 64 c, k := s.k + c, scr := scr } := by
  induction c generalizing s with
  | zero => exact ⟨s.scr, by simp [stageBytes]⟩
  | succ c ih =>
    obtain ⟨scr, h⟩ := ih (stageByte s)
    refine ⟨scr, ?_⟩
    rw [stageBytes, h]
    simp [stageByte_eq, add_ofNat_succ, Nat.add_assoc, Nat.add_comm 1 c]

/-- While the scratch has room, the staged bytes are the old ones and then the view's next `c` bytes. -/
theorem stageBytes_staged (c : Nat) (s : State) (h : s.k + c ≤ 4) :
    (stageBytes c s).scr.bytes.take (s.k + c) = s.scr.bytes.take s.k ++ (takeBytes c s).1 := by
  induction c generalizing s with
  | zero => simp [stageBytes, takeBytes]
  | succ c ih =>
    have hk : (stageByte s).k = s.k + 1 := rfl
    have := ih (stageByte s) (by rw [hk]; omega)
    rw [hk] at this
    rw [stageBytes, show s.k + (c + 1) = s.k + 1 + c by omega, this]
    have hb : (takeBytes (c + 1) s).1 = s.readByte (viewAddr s.inBase s.inPos) :: (takeBytes c (inByte s).2).1 := rfl
    have ht : (takeBytes c (stageByte s)).1 = (takeBytes c (inByte s).2).1 := by
      rw [takeBytes_bytes, takeBytes_bytes]; rfl
    rw [hb, ht, show (stageByte s).scr.bytes.take (s.k + 1) = s.scr.bytes.take s.k ++ [s.readByte (viewAddr s.inBase s.inPos)]
      from scratch_put_take s.scr s.k _ (by omega)]
    simp

/-- `Read(n)` answers ok exactly when the bridge and the view hold n bytes; it then empties the bridge and takes the
rest from the view. -/
theorem readUnit_ok {n : Nat} {s : State} (h : n ≤ s.k + s.inAvail) :
    readUnit n s = .ok (s.scr.bytes.take s.k ++ (takeBytes (n - s.k) s).1)
      { s with
        k := 0, inPos := s.inPos + BitVec.ofNat 32 (n - s.k)
        totalRead := s.totalRead + BitVec.ofNat 64 (n - s.k) } := by
  simp [readUnit, h, takeBytes_state]

/-- Otherwise it stages the whole view. -/
theorem readUnit_insufficient {n : Nat} {s : State} (h : s.k + s.inAvail < n) :
    readUnit n s = .insufficient (stageBytes s.inAvail s) := by
  simp [readUnit, Nat.not_le.mpr h]

/-- The bytes of a successful `Read(n)` from a bridge that holds fewer than n and fits its scratch. -/
theorem readUnit_ok_length {n : Nat} {s t : State} {bytes : List Byte} (h : readUnit n s = .ok bytes t) (hk : s.k ≤ n)
    (hs : s.k ≤ 4) : bytes.length = n := by
  unfold readUnit at h
  split at h
  · injection h with h₁ _
    rw [← h₁]
    simp
    omega
  · cases h

/-! ## The output side -/

theorem outByte_eq (v : Byte) (s : State) :
    outByte v s = { s with
      mem := sparseSet s.mem (viewAddr s.outBase s.outPos).toNat v
      outPos := s.outPos + 1#32, totalWritten := s.totalWritten + 1#64 } := rfl

/-- One byte less is available after OutByte. -/
theorem outAvail_outByte (v : Byte) (s : State) (h : s.outAvail ≠ 0) : (outByte v s).outAvail + 1 = s.outAvail := by
  simp only [State.outAvail, avail] at h
  show s.outCap.toNat - (s.outPos + 1#32).toNat + 1 = s.outCap.toNat - s.outPos.toNat
  have h₁ := s.outCap.isLt
  rw [BitVec.toNat_add, show (1#32).toNat = 1 from rfl, Nat.mod_eq_of_lt (by omega)]
  omega

/-- Drain writes the first `m` staged bytes, `m` the smaller of what is staged and what fits, to the next `m` addresses
of the output view, and changes nothing else. -/
theorem drainBytes_state (bs : List Byte) (s : State) :
    ∃ mem, drainBytes bs s =
      { s with
        osb := bs.drop (min bs.length s.outAvail)
        outPos := s.outPos + BitVec.ofNat 32 (min bs.length s.outAvail)
        totalWritten := s.totalWritten + BitVec.ofNat 64 (min bs.length s.outAvail)
        mem := mem } ∧
      (s.mem.wf = true → mem.wf = true) ∧
      ∀ a : Word, (∀ i < min bs.length s.outAvail, a ≠ viewAddr s.outBase (s.outPos + BitVec.ofNat 32 i)) →
        sparseGet mem a.toNat = s.readByte a := by
  induction bs generalizing s with
  | nil => exact ⟨s.mem, by simp [drainBytes], id, fun _ _ => rfl⟩
  | cons b rest ih =>
    by_cases h : s.outAvail = 0
    · exact ⟨s.mem, by simp [drainBytes, h], id, fun _ _ => rfl⟩
    · obtain ⟨mem, h₁, h₂, h₃⟩ := ih (outByte b s)
      have hm : min (b :: rest).length s.outAvail = min rest.length (outByte b s).outAvail + 1 := by
        have := outAvail_outByte b s h
        simp only [List.length_cons]; omega
      refine ⟨mem, ?_, ?_, ?_⟩
      · rw [drainBytes, if_neg h, h₁, hm]
        simp [outByte_eq, add_ofNat_succ]
      · intro hw
        exact h₂ (writeByte_memWf s _ b hw)
      · intro a ha
        rw [hm] at ha
        rw [h₃ a]
        · have := ha 0 (by omega)
          exact readByte_writeByte_other s _ a b (by simpa using this)
        · intro i hi
          have := ha (i + 1) (by omega)
          simpa [outByte_eq, add_ofNat_succ] using this

/-- `drainBytes_state` for the OSB itself. -/
theorem drain_state (s : State) :
    ∃ mem, drain s =
      { s with
        osb := s.osb.drop (min s.osb.length s.outAvail)
        outPos := s.outPos + BitVec.ofNat 32 (min s.osb.length s.outAvail)
        totalWritten := s.totalWritten + BitVec.ofNat 64 (min s.osb.length s.outAvail)
        mem := mem } ∧
      (s.mem.wf = true → mem.wf = true) ∧
      ∀ a : Word, (∀ i < min s.osb.length s.outAvail, a ≠ viewAddr s.outBase (s.outPos + BitVec.ofNat 32 i)) →
        sparseGet mem a.toNat = s.readByte a :=
  drainBytes_state s.osb s

/-- With nothing staged, Drain does nothing. -/
theorem drain_of_empty {s : State} (h : s.osb = []) : drain s = s := by
  simp only [drain, h, drainBytes]
  cases s
  simp_all

/-! ## The platform's memory map -/

theorem viewBacked_iff (s : State) (base pos : Word) (count : Nat) :
    s.viewBacked base pos count = true ↔ ∀ p < count, s.backed (viewAddr base (pos + BitVec.ofNat 32 p)) = true := by
  simp [State.viewBacked]

/-- A run of view bytes is backed when its two parts are. -/
theorem viewBacked_add (s : State) (base pos : Word) (m n : Nat) :
    s.viewBacked base pos (m + n) = (s.viewBacked base pos m && s.viewBacked base (pos + BitVec.ofNat 32 m) n) := by
  rw [Bool.eq_iff_iff, Bool.and_eq_true, viewBacked_iff, viewBacked_iff, viewBacked_iff]
  constructor
  · intro h
    refine ⟨fun p hp => h p (by omega), fun p hp => ?_⟩
    rw [BitVec.add_assoc, ← BitVec.ofNat_add]
    exact h (m + p) (by omega)
  · rintro ⟨h₁, h₂⟩ p hp
    by_cases hm : p < m
    · exact h₁ p hm
    · have := h₂ (p - m) (by omega)
      rwa [BitVec.add_assoc, ← BitVec.ofNat_add, show m + (p - m) = p by omega] at this

/-- Fewer bytes of a backed run are backed. -/
theorem viewBacked_mono {s : State} {base pos : Word} {m n : Nat} (h : s.viewBacked base pos n = true) (hle : m ≤ n) :
    s.viewBacked base pos m = true :=
  (viewBacked_iff ..).2 fun p hp => (viewBacked_iff ..).1 h p (by omega)

/-- Whether view bytes are backed is the platform's map's concern alone. -/
theorem viewBacked_congr {s t : State} (h : t.memMap = s.memMap) (base pos : Word) (count : Nat) :
    t.viewBacked base pos count = s.viewBacked base pos count := by
  simp [State.viewBacked, State.backed, h]

/-- What `onBackedMemory` lets pass: an outcome that moved backed bytes only. -/
theorem onBackedMemory_eq_next {s t : State} {o : Host.Outcome State Fault Refusal} :
    onBackedMemory s o = .next t ↔ o = .next t ∧ s.movedBytesBacked t = true := by
  cases o with
  | next u =>
    simp only [onBackedMemory]
    split
    · next h => exact ⟨fun e => by cases e; exact ⟨rfl, h⟩, fun e => e.1⟩
    · next h => exact ⟨nofun, fun e => by cases e.1; exact absurd e.2 h⟩
  | fault f => exact ⟨nofun, nofun⟩
  | refused r => exact ⟨nofun, nofun⟩

/-! ## Errors and tokens -/

/-- Raising an error again that has just been raised changes nothing. -/
theorem raiseError_raiseError (c d : ErrCode) (s : State) : raiseError c (raiseError d s) = raiseError c s := rfl

/-- What a decoder read leads to: its use of the unit, the error of a short read with flush, or a stall. -/
theorem dread_cases (n : Nat) (code : ErrCode) (flush : Bool) (s : State) (use : List Byte → State → MicroOutcome) :
    (∃ bytes t, readUnit n s = .ok bytes t ∧ dread n code flush s use = use bytes t) ∨
    (∃ t, readUnit n s = .insufficient t ∧ flush = true ∧ dread n code flush s use = .raised (raiseError code t)) ∨
    (∃ t, readUnit n s = .insufficient t ∧ flush = false ∧ dread n code flush s use = .stallInput t) := by
  unfold dread
  cases h : readUnit n s with
  | ok bytes t => exact .inl ⟨bytes, t, rfl, rfl⟩
  | insufficient t =>
    cases flush
    · exact .inr (.inr ⟨t, rfl, rfl, rfl⟩)
    · exact .inr (.inl ⟨t, rfl, rfl, rfl⟩)

end Sys2Proof.Machine
end

