-- ==== Sys2Proof/Laws/HostPort.lean ====
section
/-!
SUPPORT. The register window and the host's accesses: what each can answer, said once.
-/

namespace Sys2Proof.Machine

/-- An address given from REG_BASE has its distance as offset. -/
@[simp] theorem windowOffset_add (s : State) (x : Word) : s.windowOffset (s.regBase + x) = x.toNat := by
  rw [State.windowOffset, BitVec.add_comm, BitVec.add_sub_cancel]

@[simp] theorem windowOffset_regBase (s : State) : s.windowOffset s.regBase = 0 := by simp [State.windowOffset]

/-- CMD stands at REG_BASE and nowhere else. -/
theorem windowOffset_eq_zero (s : State) (addr : Word) : s.windowOffset addr = 0 ↔ addr = s.regBase := by
  constructor
  · intro h
    have h₀ : addr - s.regBase = 0#32 := BitVec.eq_of_toNat_eq h
    calc addr = addr - s.regBase + s.regBase := (BitVec.sub_add_cancel ..).symm
      _ = s.regBase := by rw [h₀]; simp
  · rintro rfl
    simp

/-- The block sees exactly the aligned 32-bit accesses inside its window. -/
theorem accessCheck_eq_none {width offset : Nat} :
    accessCheck width offset = none ↔ width = 4 ∧ offset % 4 = 0 ∧ offset < 64 := by
  unfold accessCheck Config.windowSize
  split
  · next h => simp; omega
  · next h => split <;> simp <;> omega

/-- A register write changes the view registers at most. -/
theorem writeRegister_state (s : State) (offset : Nat) (v : Word) :
    s.writeRegister offset v = { s with
      inBase := (s.writeRegister offset v).inBase, inPos := (s.writeRegister offset v).inPos
      inCap := (s.writeRegister offset v).inCap, outBase := (s.writeRegister offset v).outBase
      outPos := (s.writeRegister offset v).outPos, outCap := (s.writeRegister offset v).outCap } := by
  unfold State.writeRegister
  split <;> rfl

end Sys2Proof.Machine
end

