-- ==== Sys2Proof/Laws/Micro.lean ====
section
/-!
SUPPORT. What a micro-step and the PROCESS loop can do, said once: rules that reduce a claim about a micro-step's end to
claims about the reads and token meanings it is made of, and an induction rule for the loop.
-/

namespace Sys2Proof.Machine

/-- The micro-step ends in one of the three ways R13 gives it, in a state with the property named for that way. -/
def MicroOutcome.Meets (onCont onStall onRaised : State → Prop) : MicroOutcome → Prop
  | .cont s => onCont s
  | .stallInput s => onStall s
  | .raised s => onRaised s
  | .stopped _ => False
  | .refused _ => False

variable {P Q R : State → Prop}

@[simp] theorem meets_cont (s : State) : (MicroOutcome.cont s).Meets P Q R ↔ P s := Iff.rfl
@[simp] theorem meets_stallInput (s : State) : (MicroOutcome.stallInput s).Meets P Q R ↔ Q s := Iff.rfl
@[simp] theorem meets_raised (s : State) : (MicroOutcome.raised s).Meets P Q R ↔ R s := Iff.rfl
@[simp] theorem meets_stopped (f : Fault) : ¬(MicroOutcome.stopped f).Meets P Q R := id
@[simp] theorem meets_refused (r : Refusal) : ¬(MicroOutcome.refused r).Meets P Q R := id

/-- What a token's meaning did is what the micro-step did. -/
theorem afterToken_next_meets (s : State) :
    (afterToken (.next s)).Meets P Q R ↔ if s.err = .none then P s else R s := by
  simp only [afterToken]
  split <;> simp

/-- A decoder read: the three ways it can go on. -/
theorem dread_meets {n : Nat} {code : ErrCode} {flush : Bool} {s : State} {use : List Byte → State → MicroOutcome}
    (hok : ∀ bytes t, readUnit n s = .ok bytes t → (use bytes t).Meets P Q R)
    (hshort : ∀ t, readUnit n s = .insufficient t →
      (flush = false → Q t) ∧ (flush = true → R (raiseError code t))) :
    (dread n code flush s use).Meets P Q R := by
  obtain ⟨bytes, t, h, e⟩ | ⟨t, h, hf, e⟩ | ⟨t, h, hf, e⟩ := dread_cases n code flush s use
  · rw [e]; exact hok bytes t h
  · rw [e]; exact (hshort t h).2 hf
  · rw [e]; exact (hshort t h).1 hf

/-- A wire token's run is the end of its meaning. -/
theorem runToken_eq (i : Instr) (s : State) (h : i.isCommand = false) : runToken i s = afterToken (exec i s) := by
  cases i <;> first | rfl | exact absurd h (by simp [Instr.isCommand, Instr.context])

/-- A context of the stream decodes to a wire token of that context, given as many bytes as it has. -/
theorem decodeExact_context (ctx : Context) (bs : List Byte) (h : ctx ≠ .command) (hl : bs.length = ctx.length) :
    (decodeExact ctx bs).context = ctx := by
  cases ctx <;> first | rfl | exact absurd rfl h | exact congrArg Context.tail hl

/-- A context of the stream decodes to a wire token, never to a host command (R155). -/
theorem decodeExact_stream_isToken (ctx : Context) (bs : List Byte) (h : ctx ≠ .command) :
    (decodeExact ctx bs).isCommand = false := by
  cases ctx <;> first | rfl | exact absurd rfl h

/-- A one-unit token: a short read, or the token's meaning on the bytes read. -/
theorem unitToken_meets {ctx : Context} {flush : Bool} {s : State} (hc : ctx ≠ .command)
    (hok : ∀ bytes t, readUnit ctx.length s = .ok bytes t →
      (afterToken (exec (decodeExact ctx bytes) t)).Meets P Q R)
    (hshort : ∀ t, readUnit ctx.length s = .insufficient t →
      (flush = false → Q t) ∧ (flush = true → R (raiseError .truncatedStream t))) :
    (unitToken ctx flush s).Meets P Q R := by
  refine dread_meets (fun bytes t h => ?_) hshort
  rw [runToken_eq _ _ (decodeExact_stream_isToken ctx bytes hc)]
  exact hok bytes t h

/-- A gathered record: a short read, one unit more, or the token's meaning on all its bytes. -/
theorem gatherToken_meets {ctx : Context} {code : ErrCode} {flush : Bool} {s : State} {note : State → State}
    (hc : ctx ≠ .command)
    (hpart : ∀ bytes t, readUnit 4 s = .ok bytes t → (t.acc ++ bytes).length < ctx.length →
      P (note { t with acc := t.acc ++ bytes }))
    (hok : ∀ bytes t, readUnit 4 s = .ok bytes t → ctx.length ≤ (t.acc ++ bytes).length →
      (afterToken (exec (decodeExact ctx (t.acc ++ bytes)) t)).Meets P Q R)
    (hshort : ∀ t, readUnit 4 s = .insufficient t →
      (flush = false → Q t) ∧ (flush = true → R (raiseError code t))) :
    (gatherToken ctx code flush s note).Meets P Q R := by
  refine dread_meets (fun bytes t h => ?_) hshort
  simp only
  split
  · next hl => exact hpart bytes t h hl
  · next hl =>
    rw [runToken_eq _ _ (decodeExact_stream_isToken ctx _ hc)]
    exact hok bytes t h (Nat.le_of_not_lt hl)

/-- Induction over the PROCESS loop. `I` holds at the head of every turn; each way the loop can answer establishes `A`;
then whatever the loop answers has `A`. -/
theorem processLoop_induct {I A : State → Prop} {flush : Bool}
    (hdrain : ∀ s, I s → I (drain s))
    (hfull : ∀ s, I s → s.osb ≠ [] → s.outAvail = 0 → A { s with result := .stallOut })
    (hdone : ∀ s, I s → s.osb = [] → s.fin = true → A { s with result := .ready })
    (hstep : ∀ s, I s → s.osb = [] → s.fin = false →
      (microStep flush s).Meets I (fun t => A { t with result := .stallIn }) A)
    (turns : Nat) (s t : State) (hs : I s) (h : processLoop turns flush s = .next t) : A t := by
  induction turns generalizing s with
  | zero => cases h
  | succ turns ih =>
    have hd := hdrain s hs
    simp only [processLoop] at h
    obtain ⟨mem, hm, -, -⟩ := drain_state s
    split at h
    · next ho =>
      cases h
      refine hfull _ hd ho ?_
      rw [hm] at ho ⊢
      have hlt : min s.osb.length s.outAvail < s.osb.length := by
        by_contra hc
        exact ho (List.drop_eq_nil_of_le (Nat.le_of_not_lt hc))
      have hmin : min s.osb.length s.outAvail = s.outAvail := by omega
      simp only [State.outAvail, avail] at hmin ⊢
      rw [hmin, BitVec.toNat_add, BitVec.toNat_ofNat]
      have h₁ := s.outCap.isLt
      have h₂ := s.outPos.isLt
      omega
    · next ho =>
      have ho : (drain s).osb = [] := by simpa using ho
      split at h
      · next hf => cases h; exact hdone _ hd ho hf
      · next hf =>
        have hs₂ := hstep _ hd ho (by simpa using hf)
        revert h hs₂
        cases microStep flush (drain s) with
        | cont u => exact fun h hu => ih u hu h
        | stallInput u => intro h hu; cases h; exact hu
        | raised u => intro h hu; cases h; exact hu
        | stopped f => intro h; cases h
        | refused r => intro h; cases h

/-- Termination of the PROCESS loop: a bound that Drain does not raise and every continuing micro-step lowers. -/
theorem processLoop_answers {I : State → Prop} {flush : Bool} (bound : State → Nat)
    (hdrain : ∀ s, I s → I (drain s) ∧ bound (drain s) ≤ bound s)
    (hstep : ∀ s, I s → s.osb = [] → s.fin = false →
      (microStep flush s).Meets (fun t => I t ∧ bound t < bound s) (fun _ => True) (fun _ => True))
    (turns : Nat) (s : State) (hs : I s) (hb : bound s < turns) : ∃ t, processLoop turns flush s = .next t := by
  induction turns generalizing s with
  | zero => exact absurd hb (Nat.not_lt_zero _)
  | succ turns ih =>
    obtain ⟨hd, hle⟩ := hdrain s hs
    simp only [processLoop]
    split
    · exact ⟨_, rfl⟩
    · next ho =>
      split
      · exact ⟨_, rfl⟩
      · next hf =>
        have hs₂ := hstep _ hd (by simpa using ho) (by simpa using hf)
        revert hs₂
        cases microStep flush (drain s) with
        | cont u => exact fun hu => ih u hu.1 (by have := hu.2; omega)
        | stallInput u => exact fun _ => ⟨_, rfl⟩
        | raised u => exact fun _ => ⟨_, rfl⟩
        | stopped f => exact False.elim
        | refused r => exact False.elim

/-- An answer of the loop does not depend on how many turns it was given. -/
theorem processLoop_mono {flush : Bool} {turns more : Nat} {s t : State} (h : processLoop turns flush s = .next t)
    (hle : turns ≤ more) : processLoop more flush s = .next t := by
  induction turns generalizing s more with
  | zero => cases h
  | succ turns ih =>
    obtain ⟨more, rfl⟩ : ∃ m, more = m + 1 := ⟨more - 1, by omega⟩
    simp only [processLoop] at h ⊢
    split at h
    · next ho => rw [if_pos ho]; exact h
    · next ho =>
      rw [if_neg ho]
      split at h
      · next hf => rw [if_pos hf]; exact h
      · next hf =>
        rw [if_neg hf]
        revert h
        cases microStep flush (drain s) with
        | cont u => exact fun h => ih h (by omega)
        | stallInput u => exact id
        | raised u => exact id
        | stopped f => exact id
        | refused r => exact id

end Sys2Proof.Machine
end

