-- ==== Sys2Proof/Laws/Kernel.lean ====
section
/-!
SUPPORT. What the encoder's block operations and the wire tokens' meanings can change, said once.
-/

namespace Sys2Proof.Machine

/-- CloseBlock(0) stages the block and goes to a new one. -/
theorem closeBlock_open (s : State) :
    closeBlock false s = { s with
      osb := bytesLE 4 (s.blockHeaderWord false).toNat ++ s.blockBody ++
        bytesLE 4 (BitVec.ofNat 32 s.blockBody.length).toNat
      ks := .prepare } := rfl

/-- CloseBlock(1) stages the block and goes to the footer. -/
theorem closeBlock_final (s : State) :
    closeBlock true s = { s with
      osb := bytesLE 4 (s.blockHeaderWord true).toNat ++ s.blockBody ++
        bytesLE 4 (BitVec.ofNat 32 s.blockBody.length).toNat
      flushed := true, stage := .footer } := rfl

/-- A whole chunk changes the signature, the payload and the table; the payload grows by at most the chunk's bytes or a
reference. -/
theorem encodeChunk_state (bytes : List Byte) (s : State) :
    ∃ sig body ht, encodeChunk bytes s = { s with
        sig := sig, shift := s.shift + 1, body := body, ht := ht, blen := s.blen + 4, ks := .checkSig } ∧
      body.length ≤ s.body.length + max 2 bytes.length ∧ (s.ht.wf = true → ht.wf = true) := by
  unfold encodeChunk
  dsimp only
  split
  · refine ⟨_, _, s.ht, rfl, ?_, id⟩
    show (s.body ++ bytesLE 2 _).length ≤ _
    rw [List.length_append, bytesLE_length]
    omega
  · refine ⟨_, _, _, rfl, ?_, fun h => setEntry_htWf s _ _ h⟩
    show (s.body ++ bytes).length ≤ _
    rw [List.length_append]
    omega

/-- The finish path changes nothing of the group but what CloseBlock stages and the tail it appends. -/
theorem encodeTail_eq (s : State) :
    encodeTail s = closeBlock true { s with
      k := 0, body := s.body ++ s.scr.bytes.take s.k, blen := s.blen + (s.scr.bytes.take s.k).length } := rfl

/-- A wire token always answers, and touches no view, no counter, no memory, no bridge, and none of the encoder's
fields; it keeps the table canonical. -/
theorem exec_token_frame (i : Instr) (s : State) (h : i.isCommand = false) :
    ∃ t, exec i s = .next t ∧ (s.ht.wf = true → t.ht.wf = true) ∧
      t = { s with
        result := t.result, err := t.err, mode := t.mode, btype := t.btype, stage := t.stage, ks := t.ks, fin := t.fin
        osb := t.osb, blen := t.blen, sig := t.sig, bfinal := t.bfinal, n := t.n, t := t.t, cidx := t.cidx
        crem := t.crem, dcnt := t.dcnt, acc := t.acc, footStart := t.footStart, ht := t.ht } := by
  cases i
  case initEnc => simp [Instr.isCommand, Instr.context] at h
  case initDec => simp [Instr.isCommand, Instr.context] at h
  case process => simp [Instr.isCommand, Instr.context] at h
  case finish => simp [Instr.isCommand, Instr.context] at h
  case reserved => simp [Instr.isCommand, Instr.context] at h
  case literal c => exact ⟨_, rfl, fun hw => setEntry_htWf s (chunkHash c) c hw, rfl⟩
  all_goals
    simp only [exec, execStreamHeader, execBlockHeader, execSignatureW32, execSignatureW64, execReference, execTail,
      execBlockTrailer, execStreamFooter]
    repeat' split
  all_goals exact ⟨_, rfl, id, rfl⟩

end Sys2Proof.Machine
end

