-- ==== Sys2Proof/Laws/PerInstr.lean ====
section
/-!
SUPPORT. Statements for all instructions, one lemma per constructor of `Instr`.
-/

namespace Sys2Proof.Laws.EncodeLength

/-- An instruction's encoding has the length its context gives it (R150, R155). -/
def Statement (i : Instr) : Prop := (encode i).length = i.context.length

theorem initEnc (mode btype : Byte) : Statement (.initEnc mode btype) := bytesLE_length ..
theorem initDec : Statement .initDec := bytesLE_length ..
theorem process (flush : Bool) : Statement (.process flush) := bytesLE_length ..
theorem finish : Statement .finish := bytesLE_length ..
theorem reserved : Statement .reserved := bytesLE_length ..
theorem streamHeader (version : BitVec 24) (mode btype : Byte) (rsvd : BitVec 24) :
    Statement (.streamHeader version mode btype rsvd) := bytesLE_length ..
theorem blockHeader (len : Half) (final : Bool) (rsvd : BitVec 15) : Statement (.blockHeader len final rsvd) :=
  bytesLE_length ..
theorem signatureW32 (flags : Word) : Statement (.signatureW32 flags) := bytesLE_length ..
theorem signatureW64 (flags : DWord) : Statement (.signatureW64 flags) := bytesLE_length ..
theorem reference (h : Half) : Statement (.reference h) := bytesLE_length ..
theorem literal (chunk : Word) : Statement (.literal chunk) := bytesLE_length ..
theorem tail (bytes : List Byte) : Statement (.tail bytes) := rfl
theorem blockTrailer (count : Word) : Statement (.blockTrailer count) := bytesLE_length ..
theorem streamFooter (origLen encLen : DWord) : Statement (.streamFooter origLen encLen) := by
  simp [Statement, encode, Instr.context, Context.length]

end Sys2Proof.Laws.EncodeLength
end

