-- ==== Sys2Proof/Tests/Slice0.lean ====
section
/-!
SUPPORT. Tests: every expected value is written out from the spec (the rule or the vector stands beside it). And one
witness for every statement that has hypotheses.
-/

open Sys2Proof Sys2Proof.Machine Sys2Proof.Statements

namespace Sys2Proof.Tests

set_option Elab.async false

/-! ## Small states -/

/-- The state of a `next`; a fixed state where there is none. -/
def stateOf : Host.Outcome State Fault Refusal → State
  | .next s => s
  | .fault _ => State.reset
  | .refused _ => State.reset

def isNext : Host.Outcome State Fault Refusal → Bool
  | .next _ => true
  | .fault _ => false
  | .refused _ => false

theorem eq_next_stateOf {o : Host.Outcome State Fault Refusal} (h : isNext o = true) : o = .next (stateOf o) := by
  cases o <;> first | rfl | cases h

/-- The reason of a refusal. -/
def refusalOf : Host.Outcome State Fault Refusal → Option Refusal
  | .next _ => none
  | .fault _ => none
  | .refused r => some r

/-- The reset state with host accesses pending. -/
def hosting (l : List HostAccess) : State := { State.reset with host := l }

/-- The same with the register window elsewhere: its last 48 bytes stand at addresses 0 to 47. -/
def basedHosting (l : List HostAccess) : State := { hosting l with regBase := 0xFFFFFFF0#32 }

/-- The same with memory behind addresses 0x100 to 0x10F only. -/
def holedHosting (l : List HostAccess) : State := { hosting l with memMap := [⟨0x100#32, 16⟩] }

/-- Input bytes at address 0x100, and an output view of `outCap` bytes at 0x1000. -/
def feed (input : List Byte) (outCap : Word) (s : State) : State :=
  { storeBytes input 0x100#32 s with
    inBase := 0x100#32, inPos := 0#32, inCap := BitVec.ofNat 32 input.length
    outBase := 0x1000#32, outPos := 0#32, outCap := outCap }

/-- A session just started by a command. -/
def started (i : Instr) : State := stateOf (exec i State.reset)

/-- A CHAMELEON encoder, and a decoder. -/
def enc : State := started (.initEnc 1#8 0#8)
def dec : State := started .initDec

/-- The bytes put in the output view. -/
def output (s : State) : List Byte :=
  (List.range s.outPos.toNat).map fun p => s.readByte (viewAddr s.outBase (BitVec.ofNat 32 p))

/-- One PROCESS. -/
def ran (flush : Bool) (s : State) : State := stateOf (exec (.process flush) s)

/-- The 39-byte stream of "abc" (95_test_vectors.md E3). -/
def streamAbc : List Byte :=
  [1#8, 0#8, 0#8, 1#8, 0#8, 0#8, 0#8, 0#8] ++ [3#8, 0#8, 1#8, 0#8] ++ [0#8, 0#8, 0#8, 0#8] ++ [0x61#8, 0x62#8, 0x63#8] ++
    [7#8, 0#8, 0#8, 0#8] ++ [3#8, 0#8, 0#8, 0#8, 0#8, 0#8, 0#8, 0#8] ++ [0x17#8, 0#8, 0#8, 0#8, 0#8, 0#8, 0#8, 0#8]

/-! ## WellFormed refuses each ill-formed term -/

theorem test_wf_version : WellFormed (.streamHeader 2#24 1#8 0#8 0#24) = false := by decide
theorem test_wf_header_reserved : WellFormed (.streamHeader 1#24 1#8 0#8 1#24) = false := by decide
theorem test_wf_block_reserved : WellFormed (.blockHeader 40#16 true 1#15) = false := by decide
theorem test_wf_tail_of_four : WellFormed (.tail [1#8, 2#8, 3#8, 4#8]) = false := by decide
theorem test_wf_good_header : WellFormed (.streamHeader 1#24 1#8 0#8 0#24) = true := by decide
theorem test_wf_good_tail : WellFormed (.tail [1#8, 2#8, 3#8]) = true := by decide

/-! ## Every constructor's decoding, from words written out of the encoding tables (R143 to R153, R157) -/

theorem test_decode_initEnc : decode .command [0x00#8, 0x01#8, 0x01#8, 0x00#8] = .ok (.initEnc 1#8 1#8, []) := by decide
theorem test_decode_initDec : decode .command [0x08#8, 0x00#8, 0x00#8, 0x00#8] = .ok (.initDec, []) := by decide
theorem test_decode_process : decode .command [0x05#8, 0x00#8, 0x00#8, 0x00#8] = .ok (.process true, []) := by decide
theorem test_decode_finish : decode .command [0x02#8, 0x00#8, 0x00#8, 0x00#8] = .ok (.finish, []) := by decide
theorem test_decode_reserved : decode .command [0x03#8, 0x00#8, 0x00#8, 0x00#8] = .ok (.reserved, []) := by decide

/-- E1's header: version 1.0.0, mode 1, block type 0. -/
theorem test_decode_streamHeader : decode .streamHeader [1#8, 0#8, 0#8, 1#8, 0#8, 0#8, 0#8, 0#8] =
    .ok (.streamHeader 0x000001#24 1#8 0#8 0#24, []) := by decide

/-- E1's block header: L = 40, FINAL = 1. -/
theorem test_decode_blockHeader : decode .blockHeader [0x28#8, 0x00#8, 0x01#8, 0x00#8] =
    .ok (.blockHeader 40#16 true 0#15, []) := by decide

/-- E1's signature: bits 1 to 9. -/
theorem test_decode_signatureW32 : decode .signatureW32 [0xFE#8, 0x03#8, 0x00#8, 0x00#8] =
    .ok (.signatureW32 0x000003FE#32, []) := by decide

/-- R145: the low half comes first. -/
theorem test_decode_signatureW64 : decode .signatureW64 [1#8, 0#8, 0#8, 0#8, 2#8, 0#8, 0#8, 0x80#8] =
    .ok (.signatureW64 0x8000000200000001#64, []) := by decide

/-- R278: 01 FB is bucket 0xFB01. -/
theorem test_decode_reference : decode .reference [0x01#8, 0xFB#8] = .ok (.reference 0xFB01#16, []) := by decide

/-- R109: 'A' 'B' 'C' 'D' is chunk 0x44434241; the bytes after it stay. -/
theorem test_decode_literal : decode .literal [0x41#8, 0x42#8, 0x43#8, 0x44#8, 0x26#8] =
    .ok (.literal 0x44434241#32, [0x26#8]) := by decide

theorem test_decode_tail : decode (.tail 2) [0x78#8, 0x79#8, 0x12#8] = .ok (.tail [0x78#8, 0x79#8], [0x12#8]) := by decide
theorem test_decode_blockTrailer : decode .blockTrailer [0x1A#8, 0x00#8, 0x00#8, 0x00#8] =
    .ok (.blockTrailer 26#32, []) := by decide

/-- E1's footer: ORIG_LEN = 40, ENC_LEN = 42. -/
theorem test_decode_streamFooter :
    decode .streamFooter ([0x28#8, 0#8, 0#8, 0#8, 0#8, 0#8, 0#8, 0#8] ++ [0x2A#8, 0#8, 0#8, 0#8, 0#8, 0#8, 0#8, 0#8]) =
      .ok (.streamFooter 40#64 42#64, []) := by decide

theorem test_decode_short : decode .literal [1#8, 2#8, 3#8] = .error (.short .literal) := by decide
theorem test_decode_tail_too_long : decode (.tail 4) [1#8, 2#8, 3#8, 4#8] = .error (.tailTooLong 4) := by decide

/-- R157: the assembled words. -/
theorem test_encode_commands :
    encode (.initEnc 1#8 1#8) = [0x00#8, 0x01#8, 0x01#8, 0x00#8] ∧ encode .initDec = [0x08#8, 0#8, 0#8, 0#8] ∧
      encode (.process true) = [0x05#8, 0#8, 0#8, 0#8] ∧ encode .finish = [0x02#8, 0#8, 0#8, 0#8] ∧
      encode .reserved = [0x03#8, 0#8, 0#8, 0#8] := by decide

/-- A row's bits, read and run as the first instruction after reset. -/
theorem test_table_words :
    decodeTableWord 32 0x00000100 = some (.initEnc 1#8 0#8) ∧
      decodeTableWord 64 0x0000000001000001 = some (.streamHeader 1#24 1#8 0#8 0#24) ∧
      decodeTableWord 16 0xFB01 = some (.reference 0xFB01#16) := by decide

theorem test_fetchWord_command : (stateOf (step (State.reset.withFetchWord 32 0x00000100))).statusWord = 0x00020011#32 := by
  decide +kernel

/-- The parked reference is decoded, and its bucket's 4 bytes wait in the OSB (the output view is empty). -/
theorem test_fetchWord_reference : (stateOf (step (State.reset.withFetchWord 16 0xFB01))).pendWord = 4#32 := by
  decide +kernel

/-! ## Commands -/

/-- R392: word 0x00000100 gives STATUS = 0x00020011, word 0x00000200 gives 0x00000204. -/
theorem test_initEnc_status : enc.statusWord = 0x00020011#32 := by decide
theorem test_initEnc_reserved_mode : (started (.initEnc 2#8 0#8)).statusWord = 0x00000204#32 := by decide

/-- R393: STATUS = 0x00001011. -/
theorem test_initDec_status : dec.statusWord = 0x00001011#32 := by decide

/-- E3: "abc" with flush gives the 39 bytes. -/
theorem test_process_encodes_abc : output (ran true (feed [0x61#8, 0x62#8, 0x63#8] 100#32 enc)) = streamAbc := by
  decide +kernel

/-- E3: the stream decodes to "abc", and the session is READY without flush. -/
theorem test_process_decodes_abc :
    output (ran false (feed streamAbc 100#32 dec)) = [0x61#8, 0x62#8, 0x63#8] ∧
      (ran false (feed streamAbc 100#32 dec)).result = .ready := by
  decide +kernel

/-- R407: FINISH straight after INIT.ENC gives STATUS = 0x00020314. -/
theorem test_finish_too_early : (stateOf (exec .finish enc)).statusWord = 0x00020314#32 := by decide

/-- E1: STATUS is 0x0203E011 after PROCESS flush over 40 × 'A' and FINISH. -/
theorem test_finish_E1 :
    (stateOf (exec .finish (ran true (feed (List.replicate 40 0x41#8) 100#32 enc)))).statusWord = 0x0203E011#32 := by
  decide +kernel

/-- R408: with no session, STATUS = 0x00000304. -/
theorem test_reserved_no_session : (started .reserved).statusWord = 0x00000304#32 := by decide

/-! ## Wire tokens -/

/-- R354: a bad version with mode 2 is MALFORMED_HEADER; mode 2 with block type 9 is UNSUPPORTED_MODE. -/
theorem test_streamHeader_bad_version : (stateOf (exec (.streamHeader 2#24 2#8 0#8 0#24) dec)).err = .malformedHeader := by
  decide
theorem test_streamHeader_bad_mode : (stateOf (exec (.streamHeader 1#24 2#8 9#8 0#24) dec)).err = .unsupportedMode := by
  decide

/-- A decoder past a CHAMELEON header of block type 0. -/
def decBlocks : State := stateOf (exec (.streamHeader 1#24 1#8 0#8 0#24) dec)

/-- R317: `28 00 01 00` gives n = 10, t = 0; `81 00 00 00` is MALFORMED_HEADER, because 129 > 128. -/
theorem test_blockHeader_E1 :
    (stateOf (exec (.blockHeader 40#16 true 0#15) decBlocks)).n = 10 ∧
      (stateOf (exec (.blockHeader 40#16 true 0#15) decBlocks)).t = 0 := by decide
theorem test_blockHeader_too_long : (stateOf (exec (.blockHeader 129#16 false 0#15) decBlocks)).err = .malformedHeader := by
  decide

/-- A decoder past E1's block header. -/
def decE1 : State := stateOf (exec (.blockHeader 40#16 true 0#15) decBlocks)

/-- R274: 4 body bytes, and the flags of chunks 0 and 1. -/
theorem test_signatureW32_E1 :
    (stateOf (exec (.signatureW32 0x3FE#32) decE1)).chunkFlag = false ∧
      (stateOf (exec (.signatureW32 0x3FE#32) { decE1 with cidx := 1 })).chunkFlag = true ∧
      (stateOf (exec (.signatureW32 0x3FE#32) decE1)).dcnt = 4#32 := by decide

/-- R274: all 64 flags are kept; with the low half's 4 bytes the count is 8. -/
theorem test_signatureW64_all :
    (stateOf (exec (.signatureW64 0x8000000000000000#64) { decE1 with dcnt := 4#32, cidx := 63 })).chunkFlag = true ∧
      (stateOf (exec (.signatureW64 0x8000000000000000#64) { decE1 with dcnt := 4#32 })).dcnt = 8#32 := by decide

/-- R276: bytes 41 41 41 41 set HT[0xFB01] = 0x41414141. -/
theorem test_literal_E1 :
    (stateOf (exec (.literal 0x41414141#32) decE1)).entry 0xFB01#16 = 0x41414141#32 ∧
      (stateOf (exec (.literal 0x41414141#32) decE1)).osb = [0x41#8, 0x41#8, 0x41#8, 0x41#8] := by decide

/-- R278: then 01 FB gives 41 41 41 41 again; an unfilled bucket gives zeros (R272). -/
theorem test_reference_E1 :
    (stateOf (exec (.reference 0xFB01#16) (decE1.setEntry 0xFB01#16 0x41424344#32))).osb =
      [0x44#8, 0x43#8, 0x42#8, 0x41#8] := by decide
theorem test_reference_unfilled : (stateOf (exec (.reference 0xFFFF#16) decE1)).osb = [0#8, 0#8, 0#8, 0#8] := by decide

/-- R277: `78 79` is emitted as it is. -/
theorem test_tail : (stateOf (exec (.tail [0x78#8, 0x79#8]) decE1)).osb = [0x78#8, 0x79#8] := by decide

/-- R320: after 26 body bytes the trailer `1A 00 00 00` matches and `00 00 00 00` is MALFORMED_HEADER. -/
theorem test_blockTrailer_match : (stateOf (exec (.blockTrailer 26#32) { decE1 with dcnt := 26#32 })).stage = .footer := by
  decide
theorem test_blockTrailer_mismatch :
    (stateOf (exec (.blockTrailer 0#32) { decE1 with dcnt := 26#32 })).err = .malformedHeader := by decide

/-- R355: 40 bytes written and 42 before the footer match `28 …, 2A …`; the halves are not interchangeable. -/
theorem test_streamFooter_match :
    (stateOf (exec (.streamFooter 40#64 42#64) { decE1 with totalWritten := 40#64, footStart := 42#64 })).fin = true := by
  decide
theorem test_streamFooter_swapped :
    (stateOf (exec (.streamFooter 42#64 40#64) { decE1 with totalWritten := 40#64, footStart := 42#64 })).err =
      .malformedHeader := by decide

/-- R233's examples. -/
theorem test_hash :
    chunkHash 0x00000001#32 = 0x9D6E#16 ∧ chunkHash 0x41414141#32 = 0xFB01#16 ∧ chunkHash 0x44434241#32 = 0x9E26#16 ∧
      chunkHash 0xFFFFFFFF#32 = 0x6291#16 ∧ chunkHash 0x80000000#32 = 0x0000#16 := by decide

/-! ## The host's side -/

/-- R102: the view wraps at the top of the address space. -/
theorem test_view_wraps : viewAddr 0xFFFFFFFF#32 1#32 = 0#32 := by decide

/-- R32: a view register reads back; a 16-bit access is refused (R111). -/
theorem test_register_roundtrip :
    (stateOf (step (stateOf (step (hosting [.regWrite 4 0x14#32 0x12345678#32, .regRead 4 0x14#32]))))).readData =
      0x12345678#32 := by decide

/-- R32, R106: OUT_BASE stands at REG_BASE + 0x14, modulo 2^32; the address 0x14 is then another register's. -/
theorem test_register_window_based :
    (stateOf (step (basedHosting [.regWrite 4 0x00000004#32 7#32]))).outBase = 7#32 ∧
      (stateOf (step (basedHosting [.regWrite 4 0x00000014#32 7#32]))).outBase = 0#32 := by decide

/-! ## Witnesses: for each statement with hypotheses, states and operands that meet them -/

/-- After 6 bytes: one chunk encoded, 2 bytes in the bridge, stalled on input. -/
def encMid : State := ran false (feed [0x41#8, 0x42#8, 0x43#8, 0x44#8, 0x45#8, 0x46#8] 100#32 enc)

/-- A decoder in READ_CHUNK, one literal read of the 4 chunks of E5's block and one byte of the next token staged. -/
def decMid : State :=
  ran false (feed ([1#8, 0#8, 0#8, 1#8, 0#8, 0#8, 0#8, 0#8, 0x12#8, 0#8, 1#8, 0#8, 0x0A#8, 0#8, 0#8, 0#8] ++
    [0x41#8, 0x42#8, 0x43#8, 0x44#8, 0x26#8]) 100#32 dec)

/-- The encoder of "abc" after READY, and after FINISH. -/
def encReady : State := ran true (feed [0x61#8, 0x62#8, 0x63#8] 100#32 enc)
def encFinished : State := stateOf (exec .finish encReady)

/-- The same encoder with room for 20 of its 39 bytes. -/
def encFull : State := ran true (feed [0x61#8, 0x62#8, 0x63#8] 20#32 enc)

/-- COPY sessions at COPY_BYTES. -/
def copyEnc : State := ran false (feed [0x61#8] 100#32 (started (.initEnc 0#8 0#8)))
def copyDec : State :=
  ran false (feed [1#8, 0#8, 0#8, 0#8, 0#8, 0#8, 0#8, 0#8, 2#8, 0#8, 1#8, 0#8, 0x61#8] 100#32 dec)

/-- A session killed by the reserved opcode. -/
def deadEnc : State := stateOf (exec .reserved enc)

/-- The session's view again at `pos`, with more bytes of memory offered. -/
def offer (cap : Word) (s : State) : State := { s with inCap := cap }

/-- The invariant holds in the middle of an encoder's block, with the bridge in use. -/
theorem witness_inv_encMid : encMid.Inv where
  memWf := by decide +kernel
  htWf := by decide +kernel
  bridgeCount := by decide +kernel
  osbCap := by decide +kernel
  errResult := by decide +kernel
  noSession := by decide +kernel
  session := fun _ =>
    { bridge := by decide +kernel
      point := by unfold State.pointAssigned; decide +kernel
      encoderGroup := by unfold State.encoderGroupOk; decide +kernel
      encoderSig := by unfold State.encoderSigOk; decide +kernel
      encoderCopy := by unfold State.encoderCopyOk; decide +kernel
      decoderGroup := by unfold State.decoderGroupOk; decide +kernel
      decoderCopy := by unfold State.decoderCopyOk; decide +kernel
      gathered := by decide +kernel
      finStage := by decide +kernel
      finishedDone := by decide +kernel
      flushedStage := by decide +kernel }

/-- And in the middle of a decoder's. -/
theorem witness_inv_decMid : decMid.Inv where
  memWf := by decide +kernel
  htWf := by decide +kernel
  bridgeCount := by decide +kernel
  osbCap := by decide +kernel
  errResult := by decide +kernel
  noSession := by decide +kernel
  session := fun _ =>
    { bridge := by decide +kernel
      point := by unfold State.pointAssigned; decide +kernel
      encoderGroup := by unfold State.encoderGroupOk; decide +kernel
      encoderSig := by unfold State.encoderSigOk; decide +kernel
      encoderCopy := by unfold State.encoderCopyOk; decide +kernel
      decoderGroup := by unfold State.decoderGroupOk; decide +kernel
      decoderCopy := by unfold State.decoderCopyOk; decide +kernel
      gathered := by decide +kernel
      finStage := by decide +kernel
      finishedDone := by decide +kernel
      flushedStage := by decide +kernel }

/-- Both midway states are what their names say. -/
theorem test_midway_states :
    encMid.k = 2 ∧ encMid.shift = 1 ∧ encMid.ks = .readChunk ∧ decMid.k = 1 ∧ decMid.cidx = 1 ∧ decMid.n = 4 ∧
      decMid.ks = .readChunk ∧ copyEnc.ks = .copyBytes ∧ copyEnc.blen = 1 ∧ copyDec.ks = .copyBytes ∧
      copyDec.crem = 1 ∧ encFull.result = .stallOut ∧ encFinished.stage = .finished := by
  decide +kernel

theorem witness_HardwareResetKeepsMemory : (hosting [.hardwareReset]).host = .hardwareReset :: [] := rfl
theorem witness_IdleBlockHoldsItsState : State.reset.host = [] := rfl
theorem witness_StepRunsDecodedCommand :
    (basedHosting [.regWrite 4 0xFFFFFFF0#32 0xFFFFFFFF#32]).host =
      .regWrite 4 (basedHosting []).regBase 0xFFFFFFFF#32 :: [] := rfl

/-- The first and the last register, the window across the top of the address space. -/
theorem witness_RegisterReads_first :
    (basedHosting [.regRead 4 0xFFFFFFF0#32]).host =
      .regRead 4 ((basedHosting []).regBase + BitVec.ofNat 32 0x00) :: [] ∧
      (0x00, 0#32) ∈ registerTable (basedHosting [.regRead 4 0xFFFFFFF0#32]) := by decide
theorem witness_RegisterReads_last :
    (basedHosting [.regRead 4 0x0000002C#32]).host =
      .regRead 4 ((basedHosting []).regBase + BitVec.ofNat 32 0x3C) :: [] ∧
      (0x3C, 0#32) ∈ registerTable (basedHosting [.regRead 4 0x0000002C#32]) := by decide
theorem witness_RegisterReads_pend : { State.reset with osb := List.replicate 272 0#8 }.osb.length ≤ 272 :=
  List.length_replicate.le

/-- The first address beyond the window, and the one before it. -/
theorem witness_RegisterReads_outside :
    ((0x00000030#32 : Word) - (basedHosting []).regBase).toNat % 4 = 0 ∧
      64 ≤ ((0x00000030#32 : Word) - (basedHosting []).regBase).toNat ∧
      (basedHosting [.regRead 4 0x30#32]).host = .regRead 4 0x30#32 :: [] ∧
      64 ≤ ((0xFFFFFFEC#32 : Word) - (basedHosting []).regBase).toNat ∧
      (basedHosting [.regWrite 4 0xFFFFFFEC#32 1#32]).host = .regWrite 4 0xFFFFFFEC#32 1#32 :: [] := by decide

theorem witness_RegisterWrites_views :
    ∀ offset ∈ [0x08#32, 0x0C#32, 0x10#32, 0x14#32, 0x18#32, 0x1C#32],
      (basedHosting [.regWrite 4 (0xFFFFFFF0#32 + offset) 0xFFFFFFFF#32]).host =
        .regWrite 4 ((basedHosting []).regBase + offset) 0xFFFFFFFF#32 :: [] := fun _ _ => rfl
theorem witness_RegisterWrites_ignored :
    ∀ offset ∈ [0x04, 0x20, 0x24, 0x28, 0x2C, 0x30, 0x34, 0x38, 0x3C],
      (basedHosting [.regWrite 4 (0xFFFFFFF0#32 + BitVec.ofNat 32 offset) 1#32]).host =
        .regWrite 4 ((basedHosting []).regBase + BitVec.ofNat 32 offset) 1#32 :: [] := fun _ _ => rfl

theorem witness_UnalignedRegisterAccess :
    ((2 ≠ 4 ∨ ((0#32 : Word) - (hosting []).regBase).toNat % 4 ≠ 0) ∧
        (hosting [.regRead 2 0#32]).host = .regRead 2 0#32 :: []) ∧
      ((4 ≠ 4 ∨ ((0x3F#32 : Word) - (hosting []).regBase).toNat % 4 ≠ 0) ∧
        (hosting [.regWrite 4 0x3F#32 1#32]).host = .regWrite 4 0x3F#32 1#32 :: []) := by decide

theorem witness_StatusFields : State.reset.active = false ∧ encMid.active = true := by decide +kernel

/-- The last byte of the address space; and of a map with holes, the last byte with memory and the first without. -/
theorem witness_HostMemoryAccesses :
    (hosting []).backed 0xFFFFFFFF#32 = true ∧
      (hosting [.memWrite 0xFFFFFFFF#32 5#8]).host = .memWrite 0xFFFFFFFF#32 5#8 :: [] ∧
      (hosting [.memWrite 0xFFFFFFFF#32 5#8]).mem.wf = true ∧ (0#32 : Word) ≠ 0xFFFFFFFF#32 ∧
      (holedHosting []).backed 0x10F#32 = true ∧
      (holedHosting [.memRead 0x10F#32]).host = .memRead 0x10F#32 :: [] := by decide
theorem witness_HostMemoryAccesses_unbacked :
    (holedHosting []).backed 0x110#32 = false ∧ (holedHosting [.memRead 0x110#32]).host = .memRead 0x110#32 :: [] ∧
      (holedHosting [.memWrite 0x110#32 5#8]).host = .memWrite 0x110#32 5#8 :: [] := by decide

theorem witness_DecodeOfEncode :
    WellFormed (.tail [1#8, 2#8, 3#8]) = true ∧ WellFormed (.tail []) = true ∧
      WellFormed (.blockHeader 0xFFFF#16 true 0#15) = true ∧ WellFormed (.streamHeader 1#24 255#8 255#8 0#24) = true := by
  decide

theorem witness_CommandWord :
    (BitVec.extractLsb' 0 2 0xFFFFFFF4#32 = 0#2 ∧ BitVec.getLsbD 0xFFFFFFF4#32 3 = false) ∧
      (BitVec.extractLsb' 0 2 0x00000008#32 = 0#2 ∧ BitVec.getLsbD 0x00000008#32 3 = true) ∧
      BitVec.extractLsb' 0 2 0x00000001#32 = 1#2 ∧ BitVec.extractLsb' 0 2 0x00000002#32 = 2#2 ∧
      BitVec.extractLsb' 0 2 0xFFFFFFFF#32 = 3#2 := by decide

/-- INIT.ENC with all its ignored bits 1 and 0; INIT.DEC likewise; PROCESS likewise. -/
theorem witness_IgnoredCommandBits :
    (BitVec.extractLsb' 0 2 0xFF0101F4#32 = BitVec.extractLsb' 0 2 0x00010100#32 ∧
      BitVec.getLsbD 0xFF0101F4#32 3 = BitVec.getLsbD 0x00010100#32 3 ∧
      BitVec.extractLsb' 8 16 0xFF0101F4#32 = BitVec.extractLsb' 8 16 0x00010100#32) ∧
    (BitVec.extractLsb' 0 2 0xFFFFFFFC#32 = BitVec.extractLsb' 0 2 0x00000008#32 ∧
      BitVec.getLsbD 0xFFFFFFFC#32 3 = BitVec.getLsbD 0x00000008#32 3 ∧ BitVec.getLsbD 0xFFFFFFFC#32 3 ≠ false) ∧
    (BitVec.extractLsb' 0 2 0xFFFFFFFD#32 = BitVec.extractLsb' 0 2 0x00000005#32 ∧
      BitVec.getLsbD 0xFFFFFFFD#32 2 = BitVec.getLsbD 0x00000005#32 2) := by decide

theorem witness_InitEnc :
    (0x00FFFF04#32 : Word) &&& 0x0000000B#32 = 0x00000000#32 ∧
      (1#8, Mode.chameleon) ∈ [(0#8, Mode.copy), (1#8, Mode.chameleon)] ∧
      (1#8, BlockType.bt1) ∈ [(0#8, BlockType.bt0), (1#8, BlockType.bt1)] ∧
      2 ≤ (2#8 : Byte).toNat ∧ 2 ≤ (255#8 : Byte).toNat ∧ (1#8 : Byte).toNat < 2 := by decide
theorem witness_InitEnc_next : exec (.initEnc 1#8 1#8) deadEnc = .next (stateOf (exec (.initEnc 1#8 1#8) deadEnc)) ∧
    (stateOf (exec (.initEnc 1#8 1#8) deadEnc)).active = true := ⟨eq_next_stateOf (by decide), by decide⟩
theorem witness_InitDec : (0xFFFFFFFC#32 : Word) &&& 0x0000000B#32 = 0x00000008#32 := by decide

/-- PROCESS is a session command while the views are apart. -/
theorem sessionCommand_process {s : State} (h : s.viewsOverlap = false) : sessionCommand (.process true) s :=
  .inl ⟨true, rfl, h⟩

theorem witness_NoSession :
    State.reset.active = false ∧ (started .finish).err ≠ .none ∧
      exec (.process true) { started .finish with err := .unsupportedMode } =
        .next (stateOf (exec (.process true) { started .finish with err := .unsupportedMode })) ∧
      (stateOf (exec (.process true) { started .finish with err := .unsupportedMode })).err ≠ .unsupportedMode :=
  ⟨by decide, by decide, eq_next_stateOf (by decide), by decide⟩
theorem witness_NoSession_command :
    sessionCommand (.process true) { started .finish with err := .unsupportedMode } ∧
      sessionCommand .finish State.reset ∧ sessionCommand .reserved State.reset :=
  ⟨sessionCommand_process (by decide), .inr (.inl rfl), .inr (.inr rfl)⟩

theorem witness_LatchedError :
    sessionCommand (.process true) deadEnc ∧ sessionCommand .finish deadEnc ∧ deadEnc.active = true ∧
      deadEnc.err ≠ .none :=
  ⟨sessionCommand_process (by decide), .inr (.inl rfl), by decide⟩
theorem witness_LatchedError_step :
    step { deadEnc with host := [.regWrite 4 0#32 0x00000100#32] } =
        .next (stateOf (step { deadEnc with host := [.regWrite 4 0#32 0x00000100#32] })) ∧
      (stateOf (step { deadEnc with host := [.regWrite 4 0#32 0x00000100#32] })).err ≠ deadEnc.err :=
  ⟨eq_next_stateOf (by decide), by decide⟩

/-- FINISH: no session; dead; complete; complete but not drained; too early. -/
theorem witness_Finish :
    (0xFFFFFFFE#32 : Word) &&& 0x00000003#32 = 0x00000002#32 ∧ State.reset.active = false ∧
      (deadEnc.active = true ∧ deadEnc.err ≠ .none) ∧
      (encReady.active = true ∧ encReady.err = .none ∧ encReady.stage = .footer ∧ encReady.fin = true ∧ encReady.osb = []) ∧
      (enc.active = true ∧ enc.err = .none ∧ ¬(enc.stage = .footer ∧ enc.fin = true ∧ enc.osb = [])) := by decide +kernel

theorem witness_Reserved :
    (0x00000003#32 : Word) &&& 0x00000003#32 = 0x00000003#32 ∧ State.reset.active = false ∧
      (deadEnc.active = true ∧ deadEnc.err ≠ .none) ∧ (encMid.active = true ∧ encMid.err = .none) := by decide +kernel

theorem witness_OnlyProcess :
    Instr.isCommand .finish = true ∧ (∀ flush, Instr.finish ≠ .process flush) ∧
      exec .finish encReady = .next encFinished :=
  ⟨by decide, by decide, eq_next_stateOf (by decide +kernel)⟩

/-- A read that succeeds with 2 staged bytes and exactly enough, and one that fails by a byte. -/
theorem witness_BridgeReads :
    ((offer 8#32 encMid).k ≤ 4 ∧ 4 ≤ (offer 8#32 encMid).k + (offer 8#32 encMid).inAvail) ∧
      (offer 7#32 encMid).k + (offer 7#32 encMid).inAvail < 4 := by decide +kernel

theorem witness_Drain :
    3 = min (feed [] 3#32 { enc with osb := streamAbc }).osb.length (feed [] 3#32 { enc with osb := streamAbc }).outAvail ∧
      (feed [] 3#32 { enc with osb := streamAbc }).mem.wf = true := by decide +kernel

theorem witness_ProcessEntry :
    (0xFFFFFFFD#32 : Word) &&& 0x00000003#32 = 0x00000001#32 ∧
      (State.reset.active = false ∧ State.reset.viewsOverlap = false) ∧
      (deadEnc.active = true ∧ deadEnc.err ≠ .none ∧ deadEnc.viewsOverlap = false) ∧
      (encFinished.active = true ∧ encFinished.err = .none ∧ encFinished.stage = .finished ∧
        encFinished.viewsOverlap = false) ∧
      (encMid.active = true ∧ encMid.err = .none ∧ encMid.stage ≠ .finished ∧ encMid.viewsOverlap = false) := by
  decide +kernel

/-- The last input byte is the first output byte; and the regions meet across the top of the address space. PROCESS is
refused then, with no session too. -/
theorem witness_Overlap :
    { feed [1#8, 2#8] 5#32 enc with outBase := 0x101#32 }.viewsOverlap = true ∧
      { feed [1#8, 2#8] 5#32 enc with outBase := 0xFFFFFFFF#32, inBase := 0x3#32 }.viewsOverlap = true ∧
      { feed [1#8, 2#8] 5#32 enc with outBase := 0x102#32 }.viewsOverlap = false ∧
      refusalOf (exec (.process true) { feed [1#8, 2#8] 5#32 enc with outBase := 0x101#32 }) = some .overlappingViews ∧
      refusalOf (exec (.process false) { State.reset with inCap := 1#32, outCap := 1#32 }) = some .overlappingViews := by
  decide +kernel

/-- Every input byte and every free output byte has memory behind it where the platform backs the whole space. -/
theorem witness_viewsBacked (s : State) (h : s.memMap = State.reset.memMap) : viewsBacked s := by
  have all : ∀ a : Word, s.backed a = true := fun a => by
    simp only [State.backed, h, State.reset, Config.memorySize]
    simp
    omega
  exact ⟨(viewBacked_iff ..).2 fun _ _ => all _, (viewBacked_iff ..).2 fun _ _ => all _⟩

theorem witness_FirstProcess (outCap : Word) (h : outCap = 8#32 ∨ outCap = 7#32) :
    entersLoop (feed [] outCap enc) ∧ (feed [] outCap enc).mem.wf = true ∧ (feed [] outCap enc).role = .encode ∧
      (feed [] outCap enc).stage = .header ∧ (feed [] outCap enc).osb = [] ∧ (feed [] outCap enc).fin = false ∧
      (feed [] outCap enc).k = 0 ∧ (feed [] outCap enc).inAvail = 0 := by
  unfold entersLoop
  rcases h with rfl | rfl <;> decide +kernel

theorem witness_FirstProcess_backed (outCap : Word) : viewsBacked (feed [] outCap enc) := witness_viewsBacked _ rfl

theorem witness_ProcessAlwaysAnswers : entersLoop encMid ∧ entersLoop decMid := by unfold entersLoop; decide +kernel
theorem witness_ProcessAlwaysAnswers_backed : viewsBacked encMid ∧ viewsBacked decMid :=
  ⟨witness_viewsBacked _ (by decide +kernel), witness_viewsBacked _ (by decide +kernel)⟩

/-- R106, I23: the same decoder with a memory that ends at its next input byte: that byte is moved, and PROCESS is
refused. -/
def holedDec : State := { offer 22#32 decMid with memMap := [⟨0x100#32, 21⟩] }
theorem witness_ProcessAlwaysAnswers_hole :
    entersLoop holedDec ∧ holedDec.movedBytesBacked (stateOf (processLoop (processTurns holedDec) false holedDec)) = false ∧
      refusalOf (exec (.process false) holedDec) = some .noMemory := by
  unfold entersLoop
  decide +kernel
theorem witness_ProcessReturnsWithinTheBound : encMid.Inv ∧ entersLoop encMid :=
  ⟨witness_inv_encMid, witness_ProcessAlwaysAnswers.1⟩

/-- PROCESS ends in each of its four results. -/
theorem witness_ProcessResult :
    (entersLoop (feed [] 100#32 enc) ∧ (ran true (feed [] 100#32 enc)).result = .ready) ∧
      (ran false (feed [] 100#32 enc)).result = .stallIn ∧ (ran true (feed [] 35#32 enc)).result = .stallOut ∧
      (entersLoop (feed [1#8] 100#32 dec) ∧ (ran true (feed [1#8] 100#32 dec)).result = .error) := by
  unfold entersLoop
  decide +kernel
theorem witness_ProcessResult_next :
    exec (.process true) (feed [] 100#32 enc) = .next (ran true (feed [] 100#32 enc)) ∧
      exec (.process false) (feed [] 100#32 enc) = .next (ran false (feed [] 100#32 enc)) ∧
      exec (.process true) (feed [] 35#32 enc) = .next (ran true (feed [] 35#32 enc)) ∧
      exec (.process true) (feed [1#8] 100#32 dec) = .next (ran true (feed [1#8] 100#32 dec)) :=
  ⟨eq_next_stateOf (by decide +kernel), eq_next_stateOf (by decide +kernel), eq_next_stateOf (by decide +kernel),
    eq_next_stateOf (by decide +kernel)⟩

theorem witness_ProcessMovesOnlyItsViews :
    exec (.process true) (feed streamAbc 2#32 dec) = .next (ran true (feed streamAbc 2#32 dec)) :=
  eq_next_stateOf (by decide +kernel)

/-- An encoder, a decoder, and a COPY encoder. -/
theorem witness_ProcessLeavesTheOtherRole :
    (exec (.process true) encMid = .next (ran true encMid) ∧ encMid.role = .encode) ∧
      (exec (.process true) decMid = .next (ran true decMid) ∧ decMid.role = .decode) ∧
      (exec (.process true) copyEnc = .next (ran true copyEnc) ∧ copyEnc.role = .encode ∧ copyEnc.mode = .copy) :=
  ⟨⟨eq_next_stateOf (by decide +kernel), by decide +kernel⟩, ⟨eq_next_stateOf (by decide +kernel), by decide +kernel⟩,
    ⟨eq_next_stateOf (by decide +kernel), by decide +kernel, by decide +kernel⟩⟩

/-- Nothing staged; and 15 bytes staged with the footer complete, with room for all of them and for one less. -/
theorem witness_ProcessAfterReady :
    (entersLoop encReady ∧ encReady.stage = .footer ∧ encReady.fin = true ∧ encReady.osb = []) ∧
      (∀ room : Fin 2, entersLoop { encReady with osb := List.replicate 15 7#8, outCap := encReady.outPos + 14#32 + BitVec.ofNat 32 room } ∧
        { encReady with osb := List.replicate 15 7#8 }.osb ≠ []) := by
  unfold entersLoop
  decide +kernel
theorem witness_ProcessAfterReady_backed : viewsBacked encReady := witness_viewsBacked _ (by decide +kernel)

theorem witness_StageNeverGoesBack :
    exec (.process true) enc = .next (ran true enc) ∧ exec .finish encReady = .next encFinished ∧
      exec .reserved enc = .next deadEnc :=
  ⟨eq_next_stateOf (by decide +kernel), eq_next_stateOf (by decide +kernel), eq_next_stateOf (by decide)⟩

theorem witness_OutputView :
    entersLoop (feed streamAbc 3#32 dec) ∧ (feed streamAbc 3#32 dec).outPos.toNat ≤ (2#32 : Word).toNat ∧
      (2#32 : Word).toNat ≤ (feed streamAbc 3#32 dec).outCap.toNat ∧
      (ran false { feed streamAbc 3#32 dec with outCap := 2#32 }).result = .stallOut := by
  unfold entersLoop
  decide +kernel
theorem witness_OutputView_next :
    exec (.process false) { feed streamAbc 3#32 dec with outCap := 2#32 } =
      .next (ran false { feed streamAbc 3#32 dec with outCap := 2#32 }) :=
  eq_next_stateOf (by decide +kernel)

/-- The invariant does not read the input view's capacity, nor the host's accesses. -/
theorem inv_offer (cap : Word) (s : State) (h : s.Inv) : (offer cap s).Inv where
  memWf := h.memWf
  htWf := h.htWf
  bridgeCount := h.bridgeCount
  osbCap := h.osbCap
  errResult := h.errResult
  noSession := h.noSession
  session := fun a => ⟨(h.session a).1, (h.session a).2, (h.session a).3, (h.session a).4, (h.session a).5,
    (h.session a).6, (h.session a).7, (h.session a).8, (h.session a).9, (h.session a).10, (h.session a).11⟩

/-- The invariant's state with 3 more bytes offered, cut after the first of them. -/
theorem witness_InputView_inv : (offer 9#32 encMid).Inv := inv_offer 9#32 encMid witness_inv_encMid
theorem witness_InputView :
    entersLoop (offer 9#32 encMid) ∧ (offer 9#32 encMid).inPos.toNat ≤ (7#32 : Word).toNat ∧
      (7#32 : Word).toNat ≤ (offer 9#32 encMid).inCap.toNat ∧
      (ran false { offer 9#32 encMid with inCap := 7#32 }).result = .stallIn := by
  unfold entersLoop
  decide +kernel
theorem witness_InputView_next :
    exec (.process false) { offer 9#32 encMid with inCap := 7#32 } =
      .next (ran false { offer 9#32 encMid with inCap := 7#32 }) :=
  eq_next_stateOf (by decide +kernel)

/-- What a read answers, as data. -/
def readBytes : ReadResult → List Byte
  | .ok bytes _ => bytes
  | .insufficient _ => []
def readState : ReadResult → State
  | .ok _ s => s
  | .insufficient s => s

/-- The reference of E5's chunk 1: one byte staged, one in the view. -/
theorem witness_MicroStepRunsDecodedToken :
    (offer 22#32 decMid).tokenDue = some .reference ∧
      readUnit Context.reference.unitLength (offer 22#32 decMid) =
        .ok (readBytes (readUnit 2 (offer 22#32 decMid))) (readState (readUnit 2 (offer 22#32 decMid))) ∧
      decode .reference (Context.reference.tokenBytes (readState (readUnit 2 (offer 22#32 decMid)))
        (readBytes (readUnit 2 (offer 22#32 decMid)))) = .ok (.reference 0x0026#16, []) := by
  decide +kernel

/-- The same decoder with its 4 chunks read, and at a tail of no bytes. -/
theorem witness_MicroStepRunsDecodedToken_none :
    decMid.role = .decode ∧ decMid.stage = .blocks ∧ decMid.mode = .chameleon ∧ decMid.ks = .readChunk ∧
      { decMid with cidx := 4 }.cidx = decMid.n ∧ { decMid with ks := .readTail, t := 0 }.t = 0 := by decide +kernel

theorem witness_LongRecords :
    (feed streamAbc 9#32 dec).tokenDue = some .streamHeader ∧
      readUnit Context.streamHeader.unitLength (feed streamAbc 9#32 dec) =
        .ok [1#8, 0#8, 0#8, 1#8] (readState (readUnit 4 (feed streamAbc 9#32 dec))) ∧
      Context.isGathered .streamHeader = true ∧
      ((readState (readUnit 4 (feed streamAbc 9#32 dec))).acc ++ [1#8, 0#8, 0#8, 1#8]).length <
        Context.streamHeader.length := by
  decide +kernel

theorem witness_ShortRead_header :
    (feed [1#8] 9#32 dec).tokenDue = some .streamHeader ∧
      readUnit Context.streamHeader.unitLength (feed [1#8] 9#32 dec) =
        .insufficient (readState (readUnit 4 (feed [1#8] 9#32 dec))) := by decide +kernel
theorem witness_ShortRead_token :
    decMid.tokenDue = some .reference ∧
      readUnit Context.reference.unitLength decMid = .insufficient (readState (readUnit 2 decMid)) := by decide +kernel
theorem witness_ShortRead_copy :
    copyDec.role = .decode ∧ copyDec.stage = .blocks ∧ copyDec.mode = .copy ∧ copyDec.ks = .copyBytes ∧
      copyDec.crem ≠ 0 ∧ readUnit 1 copyDec = .insufficient (readState (readUnit 1 copyDec)) := by decide +kernel

theorem witness_StreamHeader :
    (2#24 : BitVec 24) ≠ 0x000001#24 ∧ 2 ≤ (2#8 : Byte).toNat ∧ (1#8 : Byte).toNat < 2 ∧ (1#24 : BitVec 24) ≠ 0#24 ∧
      (0#8, Mode.copy) ∈ [(0#8, Mode.copy), (1#8, Mode.chameleon)] ∧
      (1#8, BlockType.bt1) ∈ [(0#8, BlockType.bt0), (1#8, BlockType.bt1)] := by decide

/-- A reserved bit; a length one over the block; a non-final block one short; a full one; a final one of length 0. -/
theorem witness_BlockHeader :
    (decBlocks.btype = .bt0 ∧ decBlocks.mode = .chameleon) ∧ (1#15 : BitVec 15) ≠ 0#15 ∧ 128 < (129#16 : Half).toNat ∧
      (127#16 : Half).toNat ≠ 128 ∧ (128#16 : Half).toNat ≤ 128 ∧ (0#16 : Half).toNat ≤ 128 ∧
      (copyDec.btype = .bt0 ∧ copyDec.mode = .copy) ∧ { decBlocks with btype := .bt1 }.btype = .bt1 := by decide +kernel

theorem witness_Literal : decE1.ht.wf = true ∧ (0x0000#16 : Half) ≠ chunkHash 0x41414141#32 := by decide

theorem witness_BlockTrailer :
    (0#32 : Word) ≠ { decE1 with dcnt := 26#32 }.dcnt ∧ 26#32 = { decE1 with dcnt := 26#32 }.dcnt ∧ decE1.bfinal = true ∧
      { decE1 with bfinal := false }.bfinal = false := by decide
theorem witness_StreamFooter :
    (1#64 : DWord) ≠ decE1.totalWritten ∧ (0#64 : DWord) = decE1.totalWritten ∧ (0#64 : DWord) = decE1.footStart := by decide

/-- Flags 4 and up flipped, at the first chunk left and at the block's end. -/
theorem witness_SpareSignatureBits :
    (decMid.role = .decode ∧ decMid.stage = .blocks ∧ decMid.mode = .chameleon ∧ decMid.ks = .readChunk ∧
      decMid.cidx ≤ decMid.n ∧ ∀ i < 4, BitVec.getLsbD 0xFFFFFFFFFFFFFFFA#64 i = decMid.sig.getLsbD i) ∧ decMid.n = 4 ∧
      { decMid with cidx := 4 }.cidx ≤ decMid.n := by
  decide +kernel

theorem witness_LockStep :
    enc.ht = dec.ht ∧ enc.shift + [0x41414141#32, 0x41414141#32].length ≤ 64 ∧
      ∀ j < 64, enc.shift ≤ j → enc.sig.getLsbD j = false := by decide
theorem witness_LockStep_above : ∀ j, enc.shift ≤ j → enc.sig.getLsbD j = false := fun j _ => by simp [enc, started, stateOf, exec, execInitEnc, Mode.ofByte, BlockType.ofByte, sessionStart, sessionReset, State.reset]

theorem witness_ClosedBlock : encMid.blen < 2 ^ 16 ∧ encMid.blockBody.length < 2 ^ 32 := by decide +kernel
theorem witness_EncoderHeader : enc.role = .encode ∧ enc.stage = .header := by decide
theorem witness_EncoderFooter : encReady.role = .encode ∧ encReady.stage = .footer := by decide +kernel

/-- A CHAMELEON encoder between two blocks with a table in use, and a COPY one. -/
theorem witness_FullSignature_prepare :
    { encMid with ks := .prepare }.role = .encode ∧ { encMid with ks := .prepare }.stage = .blocks ∧ encMid.ht ≠ [] ∧
      { copyEnc with ks := .prepare }.stage = .blocks ∧ { copyEnc with ks := .prepare }.mode = .copy := by decide +kernel
theorem witness_FullSignature :
    { encMid with ks := .checkSig, shift := 32 }.role = .encode ∧ encMid.stage = .blocks ∧ encMid.mode = .chameleon ∧
      { encMid with ks := .checkSig, shift := 32 }.ks = .checkSig ∧
      32 = { encMid with ks := .checkSig, shift := 32 }.groupWidth ∧ 31 ≠ encMid.groupWidth := by decide +kernel

/-- Fewer than 4 bytes by one, and none at all. -/
theorem witness_FlushClosesTheFinalBlock :
    encMid.role = .encode ∧ encMid.stage = .blocks ∧ encMid.mode = .chameleon ∧ encMid.ks = .readChunk ∧
      (offer 7#32 encMid).k + (offer 7#32 encMid).inAvail = 3 ∧
      { encMid with k := 0 }.k + { encMid with k := 0 }.inAvail = 0 := by decide +kernel

/-- A chunk that can be read: a miss, and with its bucket filled a hit. -/
theorem witness_FlushClosesTheFinalBlock_chunk :
    readUnit 4 (offer 8#32 encMid) = .ok [0x45#8, 0x46#8, 0#8, 0#8] (readState (readUnit 4 (offer 8#32 encMid))) ∧
      (readState (readUnit 4 (offer 8#32 encMid))).entry (chunkHash 0x00004645#32) ≠ 0x00004645#32 ∧
      ((offer 8#32 encMid).setEntry (chunkHash 0x00004645#32) 0x00004645#32).entry (chunkHash 0x00004645#32) =
        0x00004645#32 := by decide +kernel

theorem witness_CopyEncoder :
    copyEnc.role = .encode ∧ copyEnc.stage = .blocks ∧ copyEnc.mode = .copy ∧ copyEnc.ks = .copyBytes ∧ copyEnc.k = 0 ∧
      { copyEnc with blen := 128 }.blen = copyEnc.blockBytes ∧ copyEnc.blen ≠ copyEnc.blockBytes ∧
      0 < (offer 2#32 copyEnc).inAvail ∧ copyEnc.inAvail = 0 := by decide +kernel
theorem witness_CopyDecoder :
    copyDec.role = .decode ∧ copyDec.stage = .blocks ∧ copyDec.mode = .copy ∧ copyDec.ks = .copyBytes ∧ copyDec.k = 0 ∧
      copyDec.crem ≠ 0 ∧ 0 < (offer 14#32 copyDec).inAvail ∧ { copyDec with crem := 0 }.crem = 0 := by decide +kernel

def asks (l : List HostAccess) (s : State) : State := { s with host := l }

theorem inv_asks (l : List HostAccess) (s : State) (h : s.Inv) : (asks l s).Inv where
  memWf := h.memWf
  htWf := h.htWf
  bridgeCount := h.bridgeCount
  osbCap := h.osbCap
  errResult := h.errResult
  noSession := h.noSession
  session := fun a => ⟨(h.session a).1, (h.session a).2, (h.session a).3, (h.session a).4, (h.session a).5,
    (h.session a).6, (h.session a).7, (h.session a).8, (h.session a).9, (h.session a).10, (h.session a).11⟩

/-- A step from a state that meets the invariant: the host asks for PROCESS. -/
theorem witness_EveryStep_inv : (asks [.regWrite 4 0#32 5#32] encMid).Inv := inv_asks _ encMid witness_inv_encMid
theorem witness_EveryStep_next :
    step (asks [.regWrite 4 0#32 5#32] encMid) = .next (stateOf (step (asks [.regWrite 4 0#32 5#32] encMid))) :=
  eq_next_stateOf (by decide +kernel)

/-- What a micro-step ended in, as data. -/
def raisedState : MicroOutcome → Option State
  | .raised s => some s
  | .cont _ => none
  | .stallInput _ => none
  | .stopped _ => none
  | .refused _ => none
theorem eq_raised {o : MicroOutcome} {s : State} (h : raisedState o = some s) : o = .raised s := by
  cases o <;> simp_all [raisedState]

/-- The decoder in the middle of a reference, with flush and nothing more: TRUNCATED_STREAM. -/
theorem witness_UnassignedPoints :
    decMid.Inv ∧ entersLoop decMid ∧ decMid.osb = [] ∧ decMid.fin = false ∧
      microStep true decMid = .raised (raiseError .truncatedStream decMid) :=
  ⟨witness_inv_decMid, witness_ProcessAlwaysAnswers.2, by decide +kernel, by decide +kernel,
    eq_raised (by decide +kernel)⟩

/-- Reset states that differ in fields of every kind R471 leaves unspecified; one steps on, one is refused. -/
def strange (l : List HostAccess) : State :=
  { hosting l with
    role := .decode, mode := .chameleon, btype := .bt1, stage := .finished, ks := .trailer, fin := true, k := 3
    scr := ⟨1#8, 2#8, 3#8, 4#8⟩, blen := 7, sig := 5#64, body := [1#8], acc := [2#8], dcnt := 9#32, ht := [(1, 5#32)] }
theorem witness_UnspecifiedFields (l : List HostAccess) : sameSpecifiedReset (hosting l) (strange l) := rfl
theorem witness_UnspecifiedFields_steps :
    (hosting [.regWrite 4 0#32 8#32]).active = false ∧ isNext (step (hosting [.regWrite 4 0#32 8#32])) = true ∧
      step (hosting [.regRead 1 0#32]) = .refused .registerAccess := ⟨rfl, by decide, rfl⟩

end Sys2Proof.Tests
end

section
/-!
PROOFS. The decoding of a CMD word (R150, R151, R390): one equation for each row of the table, which names the bits the
row reads, and from these that the other bits have no effect.
-/

namespace Sys2Proof.Proofs.CommandWord

/-! ## The row that a word selects -/

theorem op_cases (op : BitVec 2) : op = 0#2 ∨ op = 1#2 ∨ op = 2#2 ∨ op = 3#2 := by
  revert op
  decide

theorem decodeCommand_initEnc {v : Word} (hop : v.extractLsb' 0 2 = 0#2) (hrole : v.getLsbD 3 = false) :
    decodeCommand v = .initEnc (v.extractLsb' 8 8) (v.extractLsb' 16 8) := by
  simpa [decodeCommand, hop] using hrole

theorem decodeCommand_initDec {v : Word} (hop : v.extractLsb' 0 2 = 0#2) (hrole : v.getLsbD 3 = true) :
    decodeCommand v = .initDec := by
  simpa [decodeCommand, hop] using hrole

theorem decodeCommand_process {v : Word} (hop : v.extractLsb' 0 2 = 1#2) :
    decodeCommand v = .process (v.getLsbD 2) := by
  simp [decodeCommand, hop]

theorem decodeCommand_finish {v : Word} (hop : v.extractLsb' 0 2 = 2#2) : decodeCommand v = .finish := by
  simp [decodeCommand, hop]

theorem decodeCommand_reserved {v : Word} (hop : v.extractLsb' 0 2 = 3#2) : decodeCommand v = .reserved := by
  simp [decodeCommand, hop]

/-! ## The operands of INIT.ENC -/

/-- A field of a word is a field of any wider field that holds it. -/
theorem extractLsb'_of_wider_field {n outer len inner wide : Nat} (x : BitVec n) (h : inner + len ≤ wide) :
    (x.extractLsb' outer wide).extractLsb' inner len = x.extractLsb' (outer + inner) len := by
  ext i hi
  have inWide : inner + i < wide := by omega
  simp [inWide, Nat.add_assoc]

/-- Words that agree on a field agree on every narrower field inside it. -/
theorem extractLsb'_congr_of_wider_field {n outer len wide : Nat} {x y : BitVec n} (inner : Nat)
    (hxy : x.extractLsb' outer wide = y.extractLsb' outer wide) (h : inner + len ≤ wide) :
    x.extractLsb' (outer + inner) len = y.extractLsb' (outer + inner) len := by
  rw [← extractLsb'_of_wider_field x h, ← extractLsb'_of_wider_field y h, hxy]

/-! ## Ignored bits -/

/-- R151 in the INIT rows: ROLE chooses the row, and only the encoder's reads the operands. -/
theorem decodeCommand_init_congr {v w : Word} (hv : v.extractLsb' 0 2 = 0#2) (hw : w.extractLsb' 0 2 = 0#2)
    (hrole : v.getLsbD 3 = w.getLsbD 3)
    (hoperands : v.getLsbD 3 = false → v.extractLsb' 8 16 = w.extractLsb' 8 16) :
    decodeCommand v = decodeCommand w := by
  cases hr : v.getLsbD 3 with
  | false =>
    have hmode : v.extractLsb' 8 8 = w.extractLsb' 8 8 :=
      extractLsb'_congr_of_wider_field 0 (hoperands hr) (by decide)
    have hbtype : v.extractLsb' 16 8 = w.extractLsb' 16 8 :=
      extractLsb'_congr_of_wider_field 8 (hoperands hr) (by decide)
    rw [decodeCommand_initEnc hv hr, decodeCommand_initEnc hw (hrole ▸ hr), hmode, hbtype]
  | true => rw [decodeCommand_initDec hv hr, decodeCommand_initDec hw (hrole ▸ hr)]

/-- Settles O12, by the row that OP selects: the row's equation names the bits it reads, and the words agree on them. -/
theorem ignoredCommandBitsHaveNoEffect : Obligations.IgnoredCommandBitsHaveNoEffect := by
  unfold Obligations.IgnoredCommandBitsHaveNoEffect
  intro v w hop hinit hflush
  obtain hv | hv | hv | hv := op_cases (v.extractLsb' 0 2)
  case inl =>
    obtain ⟨hrole, hoperands⟩ := hinit hv
    exact decodeCommand_init_congr hv (hop ▸ hv) hrole hoperands
  case inr.inl => rw [decodeCommand_process hv, decodeCommand_process (hop ▸ hv), hflush hv]
  case inr.inr.inl => rw [decodeCommand_finish hv, decodeCommand_finish (hop ▸ hv)]
  case inr.inr.inr => rw [decodeCommand_reserved hv, decodeCommand_reserved (hop ▸ hv)]

end Sys2Proof.Proofs.CommandWord
end

section
/-!
PROOFS. The stream header (R354, R353): which selector bytes are accepted, what CheckHeader does at each check that fails
and when all pass, and from these the order of its checks.
-/

namespace Sys2Proof.Proofs.StreamHeader

open Sys2Proof.Machine

/-! ## The selectors (R141, R142) -/

/-- A selector byte: 0 and 1 each choose a value, and every other byte is rejected. -/
def select {α : Type} (zero one : α) (b : Byte) : Option α :=
  if b = 0#8 then some zero else if b = 1#8 then some one else none

theorem mode_ofByte_eq_select (b : Byte) : Mode.ofByte b = select .copy .chameleon b := rfl

theorem blockType_ofByte_eq_select (b : Byte) : BlockType.ofByte b = select .bt0 .bt1 b := rfl

section
variable {α : Type} {zero one v : α} {b : Byte}

theorem select_eq_none_iff : select zero one b = none ↔ 2 ≤ b.toNat := by
  unfold select
  split
  · next h => simp [h]
  · split
    · next h => simp [h]
    · simp; bv_omega

theorem exists_select_of_lt (h : b.toNat < 2) : ∃ v, select zero one b = some v :=
  Option.ne_none_iff_exists'.mp fun hnone => Nat.not_le.mpr h (select_eq_none_iff.mp hnone)

theorem select_of_mem (h : (b, v) ∈ [(0#8, zero), (1#8, one)]) : select zero one b = some v := by
  simp only [List.mem_cons, List.not_mem_nil, or_false, Prod.mk.injEq] at h
  obtain ⟨rfl, rfl⟩ | ⟨rfl, rfl⟩ := h <;> rfl

end

theorem exists_mode_of_lt {b : Byte} (h : b.toNat < 2) : ∃ m, Mode.ofByte b = some m := by
  simpa only [mode_ofByte_eq_select] using exists_select_of_lt h

theorem exists_blockType_of_lt {b : Byte} (h : b.toNat < 2) : ∃ bt, BlockType.ofByte b = some bt := by
  simpa only [blockType_ofByte_eq_select] using exists_select_of_lt h

/-! ## CheckHeader, one equation for each way it ends -/

variable {version : BitVec 24} {mode btype : Byte} {rsvd : BitVec 24} {m : Mode} {bt : BlockType}

theorem exec_streamHeader_of_version_ne (s : State) (hversion : version ≠ Config.formatVersion) :
    exec (.streamHeader version mode btype rsvd) s = .next (raiseError .malformedHeader { s with acc := [] }) := by
  simp [exec, execStreamHeader, hversion]

theorem exec_streamHeader_of_mode_none (s : State) (hmode : Mode.ofByte mode = none) :
    exec (.streamHeader Config.formatVersion mode btype rsvd) s =
      .next (raiseError .unsupportedMode { s with acc := [] }) := by
  simp [exec, execStreamHeader, hmode]

theorem exec_streamHeader_of_blockType_none (s : State) (hmode : Mode.ofByte mode = some m)
    (hbtype : BlockType.ofByte btype = none) :
    exec (.streamHeader Config.formatVersion mode btype rsvd) s =
      .next (raiseError .malformedHeader { s with acc := [] }) := by
  simp [exec, execStreamHeader, hmode, hbtype]

theorem exec_streamHeader_of_rsvd_ne (s : State) (hmode : Mode.ofByte mode = some m)
    (hbtype : BlockType.ofByte btype = some bt) (hrsvd : rsvd ≠ 0#24) :
    exec (.streamHeader Config.formatVersion mode btype rsvd) s =
      .next (raiseError .malformedHeader { s with acc := [] }) := by
  simp [exec, execStreamHeader, hmode, hbtype, hrsvd]

/-- R353: the header that passes every check opens the blocks. -/
theorem exec_streamHeader_of_good (s : State) (hmode : Mode.ofByte mode = some m)
    (hbtype : BlockType.ofByte btype = some bt) :
    exec (.streamHeader Config.formatVersion mode btype 0#24) s =
      .next { s with acc := [], mode := m, btype := bt, stage := .blocks, ks := .prepare } := by
  simp [exec, execStreamHeader, hmode, hbtype]

/-- Settles O38, by the first check that fails: each clause is CheckHeader's equation for that check, once the selectors
are read as numbers. -/
theorem streamHeaderChecksInOrder : Obligations.StreamHeaderChecksInOrder := by
  unfold Obligations.StreamHeaderChecksInOrder
  intro s version mode btype rsvd
  refine ⟨?badVersion, ?badMode, ?badBlockType, ?badReserved, ?good⟩
  case badVersion => exact exec_streamHeader_of_version_ne s
  case badMode =>
    rintro rfl hmode
    have hnone : Mode.ofByte mode = none := by rwa [mode_ofByte_eq_select, select_eq_none_iff]
    exact exec_streamHeader_of_mode_none s hnone
  case badBlockType =>
    rintro rfl hmode hbtype
    obtain ⟨m, hm⟩ := exists_mode_of_lt hmode
    have hnone : BlockType.ofByte btype = none := by rwa [blockType_ofByte_eq_select, select_eq_none_iff]
    exact exec_streamHeader_of_blockType_none s hm hnone
  case badReserved =>
    rintro rfl hmode hbtype hrsvd
    obtain ⟨m, hm⟩ := exists_mode_of_lt hmode
    obtain ⟨bt, hbt⟩ := exists_blockType_of_lt hbtype
    exact exec_streamHeader_of_rsvd_ne s hm hbt hrsvd
  case good =>
    rintro rfl rfl m bt hm hbt
    have hmode : Mode.ofByte mode = some m := by rw [mode_ofByte_eq_select, select_of_mem hm]
    have hbtype : BlockType.ofByte btype = some bt := by rw [blockType_ofByte_eq_select, select_of_mem hbt]
    exact exec_streamHeader_of_good s hmode hbtype

end Sys2Proof.Proofs.StreamHeader
end

section
/-!
PROOFS. The host's commands (R390, R400, R402, R407, R408): a CMD write runs its word's row, and PROCESS, FINISH and the
reserved opcode share their answers with no session and in a dead one, so that only a live, healthy session tells them
apart.
-/

namespace Sys2Proof.Proofs.HostCommands

open Sys2Proof.Machine Sys2Proof.Statements Sys2Proof.Proofs.CommandWord

variable {s : State} {i : Instr}

/-! ## The word of a CMD write -/

theorem step_of_cmdWrite {v : Word} {rest : List HostAccess} (hhost : s.host = .regWrite 4 s.regBase v :: rest) :
    step s = exec (decodeCommand v) { s with host := rest } := by
  have hoffset : State.windowOffset { s with host := rest } s.regBase = 0 :=
    windowOffset_regBase { s with host := rest }
  have hcheck : accessCheck 4 0 = none := accessCheck_eq_none.mpr (by decide)
  simp [step, hhost, hostAccess, hoffset, hcheck]

/-- Masking a word with 3 leaves OP, which may so be read off the masked word. -/
theorem op_of_masked {v : Word} {op : BitVec 2} (h : v &&& 3#32 = op.setWidth 32) : v.extractLsb' 0 2 = op :=
  calc v.extractLsb' 0 2
    _ = v.extractLsb' 0 2 &&& BitVec.extractLsb' 0 2 3#32 := BitVec.and_allOnes.symm
    _ = (v &&& 3#32).extractLsb' 0 2 := BitVec.extractLsb'_and.symm
    _ = op := by rw [h, BitVec.extractLsb'_setWidth_of_le (by decide), BitVec.extractLsb'_eq_self]

/-- Settles O11: the step by the register window's laws, the rows by the decoder's equation for each. -/
theorem commandWordSelectsItsRow : Obligations.CommandWordSelectsItsRow := by
  unfold Obligations.CommandWordSelectsItsRow
  exact ⟨fun _ _ _ => step_of_cmdWrite, fun _ => ⟨decodeCommand_initEnc, decodeCommand_initDec, decodeCommand_process,
    decodeCommand_finish, decodeCommand_reserved⟩⟩

/-! ## With no session, and in a dead one -/

theorem sessionCommand_process {flush : Bool} (hviews : s.viewsOverlap = false) : sessionCommand (.process flush) s :=
  .inl ⟨flush, rfl, hviews⟩

theorem sessionCommand_finish : sessionCommand .finish s := .inr (.inl rfl)

theorem sessionCommand_reserved : sessionCommand .reserved s := .inr (.inr rfl)

/-- R400. -/
theorem exec_of_noSession (hi : sessionCommand i s) (hactive : s.active = false) : exec i s = .next (noSession s) := by
  obtain ⟨flush, rfl, hviews⟩ | rfl | rfl := hi
  · simp [exec, execProcess, hviews, hactive]
  · simp [exec, execFinish, hactive]
  · simp [exec, execReserved, hactive]

/-- R433. -/
theorem exec_of_latchedError (hi : sessionCommand i s) (hactive : s.active = true) (herr : s.err ≠ .none) :
    exec i s = .next { s with result := .error } := by
  obtain ⟨flush, rfl, hviews⟩ | rfl | rfl := hi
  · simp [exec, execProcess, hviews, hactive, herr]
  · simp [exec, execFinish, hactive, herr]
  · simp [exec, execReserved, hactive, herr]

/-- Settles O16: in a dead session the code stays, so a command that changes a code that is set found no session. -/
theorem noSessionCommandsOnlyRaise : Obligations.NoSessionCommandsOnlyRaise := by
  unfold Obligations.NoSessionCommandsOnlyRaise
  intro i s hi
  refine ⟨exec_of_noSession hi, fun t hexec herr hchanged => ?_⟩
  by_contra hactive
  have hdead := exec_of_latchedError hi (Bool.eq_true_of_not_eq_false hactive) herr
  obtain rfl : { s with result := .error } = t := Host.Outcome.next.inj (hdead.symm.trans hexec)
  exact hchanged rfl

/-! ## In a live, healthy session -/

/-- R407. -/
theorem exec_finish_of_complete (hactive : s.active = true) (herr : s.err = .none)
    (hcomplete : s.stage = .footer ∧ s.fin = true ∧ s.osb = []) :
    exec .finish s = .next { s with stage := .finished, result := .ready } := by
  simp [exec, execFinish, hactive, herr, hcomplete]

/-- R407. -/
theorem exec_finish_of_incomplete (hactive : s.active = true) (herr : s.err = .none)
    (hincomplete : ¬(s.stage = .footer ∧ s.fin = true ∧ s.osb = [])) :
    exec .finish s = .next (raiseError .invalidStateTransition s) := by
  simp [exec, execFinish, hactive, herr, if_neg hincomplete]

/-- R408. -/
theorem exec_reserved_of_live (hactive : s.active = true) (herr : s.err = .none) :
    exec .reserved s = .next (raiseError .invalidStateTransition s) := by
  simp [exec, execReserved, hactive, herr]

/-- R402. -/
theorem exec_process_of_finished (flush : Bool) (hviews : s.viewsOverlap = false) (hactive : s.active = true)
    (herr : s.err = .none) (hstage : s.stage = .finished) :
    exec (.process flush) s = .next (raiseError .invalidStateTransition s) := by
  simp [exec, execProcess, hviews, hactive, herr, hstage]

/-- R402: past its entry checks PROCESS is its loop. -/
theorem exec_process_of_entersLoop (flush : Bool) (h : entersLoop s) :
    exec (.process flush) s = onBackedMemory s (processLoop (processTurns s) flush s) := by
  obtain ⟨hactive, herr, hstage, hviews⟩ := h
  simp [exec, execProcess, hviews, hactive, herr, hstage]

/-- Settles O18, by the state of the session: none, dead, or live with the footer complete or not. -/
theorem finishCommitsOnlyACompleteStream : Obligations.FinishCommitsOnlyACompleteStream := by
  unfold Obligations.FinishCommitsOnlyACompleteStream
  refine ⟨fun v hv => decodeCommand_finish (op_of_masked hv), fun s => ⟨?noSession, ?dead, ?complete, ?incomplete⟩⟩
  case noSession => exact exec_of_noSession sessionCommand_finish
  case dead => exact exec_of_latchedError sessionCommand_finish
  case complete => exact exec_finish_of_complete
  case incomplete => exact exec_finish_of_incomplete

/-- Settles O19, by the state of the session: none, dead or live. -/
theorem reservedOpcodeKillsALiveSession : Obligations.ReservedOpcodeKillsALiveSession := by
  unfold Obligations.ReservedOpcodeKillsALiveSession
  refine ⟨fun v hv => decodeCommand_reserved (op_of_masked hv), fun s => ⟨?noSession, ?dead, ?live⟩⟩
  case noSession => exact exec_of_noSession sessionCommand_reserved
  case dead => exact exec_of_latchedError sessionCommand_reserved
  case live => exact exec_reserved_of_live

/-- Settles O23, by the first entry check that answers. -/
theorem processEntryChecksInOrder : Obligations.ProcessEntryChecksInOrder := by
  unfold Obligations.ProcessEntryChecksInOrder
  refine ⟨fun v hv => decodeCommand_process (op_of_masked hv), fun flush s hviews =>
    ⟨?noSession, ?dead, ?finished, ?loop⟩⟩
  case noSession => exact exec_of_noSession (sessionCommand_process hviews)
  case dead => exact exec_of_latchedError (sessionCommand_process hviews)
  case finished => exact exec_process_of_finished flush hviews
  case loop =>
    intro hactive herr hstage
    exact exec_process_of_entersLoop flush ⟨hactive, herr, hstage, hviews⟩

end Sys2Proof.Proofs.HostCommands
end

section
/-!
PROOFS. The error latch (R433): of the host's accesses only a CMD write and the reset input can change ERR, in a dead
session a CMD write of any row but INIT's keeps it, and a start of a session and a hardware reset clear it.
-/

namespace Sys2Proof.Proofs.ErrorLatch

open Sys2Proof.Machine Sys2Proof.Statements Sys2Proof.Proofs.CommandWord Sys2Proof.Proofs.StreamHeader
open Sys2Proof.Proofs.HostCommands

variable {s t : State}

/-! ## Which accesses can change ERR -/

@[simp] theorem writeRegister_err (s : State) (offset : Nat) (v : Word) : (s.writeRegister offset v).err = s.err := by
  rw [writeRegister_state]

/-- R432, R470: ERR is out of reach of every access but a CMD write and the reset input. -/
theorem cmdWrite_or_reset_of_err_ne {a : HostAccess} (hnext : hostAccess a s = .next t) (hchanged : t.err ≠ s.err) :
    (∃ v, a = .regWrite 4 s.regBase v ∧ exec (decodeCommand v) s = .next t) ∨ a = .hardwareReset := by
  cases a with
  | regWrite width addr v =>
    simp only [hostAccess] at hnext
    split at hnext
    · cases hnext
    · next hcheck =>
      obtain ⟨rfl, -, -⟩ := accessCheck_eq_none.mp hcheck
      split at hnext
      · next hoffset =>
        obtain rfl := (windowOffset_eq_zero s addr).mp hoffset
        exact .inl ⟨v, rfl, hnext⟩
      · cases hnext
        exact absurd (writeRegister_err ..) hchanged
  | regRead width addr =>
    simp only [hostAccess] at hnext
    split at hnext <;> cases hnext
    exact absurd rfl hchanged
  | memWrite addr v =>
    simp only [hostAccess] at hnext
    split at hnext <;> cases hnext
    exact absurd (writeByte_err ..) hchanged
  | memRead addr =>
    simp only [hostAccess] at hnext
    split at hnext <;> cases hnext
    exact absurd rfl hchanged
  | hardwareReset => exact .inr rfl

/-! ## The commands in a dead session -/

/-- R477. -/
theorem exec_process_of_overlap (flush : Bool) (hviews : s.viewsOverlap = true) :
    exec (.process flush) s = .refused .overlappingViews := by
  simp [exec, execProcess, hviews]

/-- A command word of another row than INIT's that answers is a session command, its precondition met. -/
theorem sessionCommand_of_not_init {v : Word} (hop : v.extractLsb' 0 2 ≠ 0#2)
    (hnext : exec (decodeCommand v) s = .next t) : sessionCommand (decodeCommand v) s := by
  obtain hv | hv | hv | hv := op_cases (v.extractLsb' 0 2)
  case inl => exact absurd hv hop
  case inr.inl =>
    rw [decodeCommand_process hv] at hnext ⊢
    cases hviews : s.viewsOverlap with
    | false => exact sessionCommand_process hviews
    | true => cases (exec_process_of_overlap _ hviews).symm.trans hnext
  case inr.inr.inl => exact decodeCommand_finish hv ▸ sessionCommand_finish
  case inr.inr.inr => exact decodeCommand_reserved hv ▸ sessionCommand_reserved

/-- R433: so only an INIT word can change the code of a dead session. -/
theorem init_of_err_ne {v : Word} (hactive : s.active = true) (herr : s.err ≠ .none)
    (hnext : exec (decodeCommand v) s = .next t) (hchanged : t.err ≠ s.err) : v.extractLsb' 0 2 = 0#2 := by
  by_contra hop
  have hdead := exec_of_latchedError (sessionCommand_of_not_init hop hnext) hactive herr
  obtain rfl : { s with result := .error } = t := Host.Outcome.next.inj (hdead.symm.trans hnext)
  exact hchanged rfl

/-- R433, for a whole step. -/
theorem step_init_or_reset_of_err_ne (hactive : s.active = true) (herr : s.err ≠ .none) (hnext : step s = .next t)
    (hchanged : t.err ≠ s.err) :
    (∃ v rest, s.host = .regWrite 4 s.regBase v :: rest ∧ v.extractLsb' 0 2 = 0#2) ∨
      ∃ rest, s.host = .hardwareReset :: rest := by
  cases hhost : s.host with
  | nil =>
    obtain rfl : s = t := by simpa [step, hhost] using hnext
    exact absurd rfl hchanged
  | cons a rest =>
    simp only [step, hhost] at hnext
    obtain ⟨v, rfl, hexec⟩ | rfl := cmdWrite_or_reset_of_err_ne hnext hchanged
    · exact .inl ⟨v, rest, rfl, init_of_err_ne (s := { s with host := rest }) hactive herr hexec hchanged⟩
    · exact .inr ⟨rest, rfl⟩

/-! ## What clears ERR -/

/-- R393. -/
theorem exec_initDec (s : State) :
    exec .initDec s = .next (sessionStart { sessionReset s with role := .decode, mode := .copy, btype := .bt0 }) := rfl

/-- R391, R392: INIT.ENC with both selectors good. -/
theorem exec_initEnc_of_good {mode btype : Byte} {m : Mode} {bt : BlockType} (s : State)
    (hmode : Mode.ofByte mode = some m) (hbtype : BlockType.ofByte btype = some bt) :
    exec (.initEnc mode btype) s =
      .next (sessionStart { sessionReset s with role := .encode, mode := m, btype := bt }) := by
  simp [exec, execInitEnc, hmode, hbtype]

@[simp] theorem hardwareReset_err (s : State) : (hardwareReset s).err = .none := rfl

@[simp] theorem hardwareReset_active (s : State) : (hardwareReset s).active = false := rfl

theorem step_of_hardwareReset {rest : List HostAccess} (hhost : s.host = .hardwareReset :: rest) :
    step s = .next (hardwareReset { s with host := rest }) := by
  simp [step, hhost, hostAccess]

/-- Settles O17: the dead session's answers are R433's, a change of its code is traced back to the access that made it,
and INIT and reset are each their equation. -/
theorem latchedErrorStaysUntilInitOrReset : Obligations.LatchedErrorStaysUntilInitOrReset := by
  unfold Obligations.LatchedErrorStaysUntilInitOrReset
  refine ⟨?dead, ?latch, ?initDec, ?initEnc, ?reset⟩
  case dead => exact fun i s => exec_of_latchedError
  case latch => exact fun s t => step_init_or_reset_of_err_ne
  case initDec => exact fun s => ⟨_, exec_initDec s, sessionStart_err _⟩
  case initEnc =>
    intro s mode btype hmode hbtype
    obtain ⟨m, hm⟩ := exists_mode_of_lt hmode
    obtain ⟨bt, hbt⟩ := exists_blockType_of_lt hbtype
    exact ⟨_, exec_initEnc_of_good s hm hbt, sessionStart_err _⟩
  case reset =>
    intro s rest hhost
    exact ⟨_, step_of_hardwareReset hhost, hardwareReset_err _, hardwareReset_active _⟩

end Sys2Proof.Proofs.ErrorLatch
end

section
/-!
PROOFS. The encodings (R143 to R153, R157): an instruction's bytes decode to it, whatever bytes follow.
-/

namespace Sys2Proof.Proofs.Codec

/-! ## The fields of a word put together from parts -/

section
variable {v w start len : Nat} {hi : BitVec v} {lo : BitVec w}

/-- A field above the low part is a field of the high part. -/
theorem extractLsb'_append_high (x : BitVec len) (hstart : w ≤ start) (hx : hi.extractLsb' (start - w) len = x) :
    (hi ++ lo).extractLsb' start len = x :=
  (BitVec.extractLsb'_append_eq_of_le hstart).trans hx

theorem getLsbD_append_high (hstart : w ≤ start) : (hi ++ lo).getLsbD start = hi.getLsbD (start - w) := by
  rw [BitVec.getLsbD_append, if_neg (Nat.not_lt.mpr hstart)]

end

theorem decodeCommand_encodeCommand_initEnc (mode btype : Byte) :
    decodeCommand (encodeCommand (.initEnc mode btype)) = .initEnc mode btype := by
  have hlow : ∀ start len, start + len ≤ 8 → (encodeCommand (.initEnc mode btype)).extractLsb' start len = 0#len :=
    fun start len h => (BitVec.extractLsb'_append_eq_of_add_le h).trans (by simp)
  have hrole : (encodeCommand (.initEnc mode btype)).getLsbD 3 = false :=
    BitVec.getLsbD_append.trans (by simp)
  have hmode : (encodeCommand (.initEnc mode btype)).extractLsb' 8 8 = mode :=
    extractLsb'_append_high mode (by decide) BitVec.extractLsb'_append_eq_right
  have hbtype : (encodeCommand (.initEnc mode btype)).extractLsb' 16 8 = btype :=
    extractLsb'_append_high btype (by decide) (extractLsb'_append_high btype (by decide) BitVec.extractLsb'_append_eq_right)
  rw [CommandWord.decodeCommand_initEnc (hlow 0 2 (by decide)) hrole, hmode, hbtype]

theorem decodeCommand_encodeCommand_process (flush : Bool) :
    decodeCommand (encodeCommand (.process flush)) = .process flush := by
  cases flush <;> decide

theorem decodeStreamHeader_append (version : BitVec 24) (mode btype : Byte) (rsvd : BitVec 24) :
    decodeStreamHeader (rsvd ++ btype ++ mode ++ version) = .streamHeader version mode btype rsvd := by
  unfold decodeStreamHeader
  congr 1
  case e_version => exact BitVec.extractLsb'_append_eq_right
  case e_mode => exact extractLsb'_append_high mode (by decide) BitVec.extractLsb'_append_eq_right
  case e_btype =>
    exact extractLsb'_append_high btype (by decide)
      (extractLsb'_append_high btype (by decide) BitVec.extractLsb'_append_eq_right)
  case e_rsvd =>
    exact extractLsb'_append_high rsvd (by decide)
      (extractLsb'_append_high rsvd (by decide) BitVec.extractLsb'_append_eq_left)

theorem decodeBlockHeader_append (len : Half) (final : Bool) (rsvd : BitVec 15) :
    decodeBlockHeader (rsvd ++ BitVec.ofBool final ++ len) = .blockHeader len final rsvd := by
  unfold decodeBlockHeader
  congr 1
  case e_len => exact BitVec.extractLsb'_append_eq_right
  case e_final => exact (getLsbD_append_high (by decide)).trans (BitVec.getLsbD_append.trans (by simp))
  case e_rsvd => exact extractLsb'_append_high rsvd (by decide) BitVec.extractLsb'_append_eq_left

/-- Two 64-bit halves, the low one first, read as one little-endian number. -/
theorem leWord_halves (low high : DWord) :
    leWord 128 (bytesLE 8 low.toNat ++ bytesLE 8 high.toNat) = high ++ low := by
  apply BitVec.eq_of_toNat_eq
  have hlow := low.isLt
  have hhigh := high.isLt
  rw [leWord, leNat_append, leNat_bytesLE, leNat_bytesLE, bytesLE_length, BitVec.toNat_ofNat, BitVec.toNat_append,
    ← Nat.shiftLeft_add_eq_or_of_lt hlow, Nat.shiftLeft_eq]
  omega

theorem decodeStreamFooter_append (low high : DWord) : decodeStreamFooter (high ++ low) = .streamFooter low high := by
  unfold decodeStreamFooter
  congr 1
  case e_origLen => exact BitVec.extractLsb'_append_eq_right
  case e_encLen => exact BitVec.extractLsb'_append_eq_left

/-! ## Decode of encode -/

/-- The encoding of an instruction has its context's length: the laws per constructor, gathered. -/
theorem encode_length (i : Instr) : (encode i).length = i.context.length := by
  cases i with
  | initEnc mode btype => exact Laws.EncodeLength.initEnc mode btype
  | initDec => exact Laws.EncodeLength.initDec
  | process flush => exact Laws.EncodeLength.process flush
  | finish => exact Laws.EncodeLength.finish
  | reserved => exact Laws.EncodeLength.reserved
  | streamHeader version mode btype rsvd => exact Laws.EncodeLength.streamHeader version mode btype rsvd
  | blockHeader len final rsvd => exact Laws.EncodeLength.blockHeader len final rsvd
  | signatureW32 flags => exact Laws.EncodeLength.signatureW32 flags
  | signatureW64 flags => exact Laws.EncodeLength.signatureW64 flags
  | reference h => exact Laws.EncodeLength.reference h
  | literal chunk => exact Laws.EncodeLength.literal chunk
  | tail bytes => exact Laws.EncodeLength.tail bytes
  | blockTrailer count => exact Laws.EncodeLength.blockTrailer count
  | streamFooter origLen encLen => exact Laws.EncodeLength.streamFooter origLen encLen

/-- A command's 4 bytes read as its word. -/
theorem decodeExact_command (v : Word) : decodeExact .command (bytesLE 4 v.toNat) = decodeCommand v :=
  congrArg decodeCommand (leWord_bytesLE v (by decide))

/-- The whole of an instruction's bytes, read in its context, is the instruction. -/
theorem decodeExact_encode (i : Instr) : decodeExact i.context (encode i) = i := by
  cases i with
  | initEnc mode btype =>
    exact (decodeExact_command _).trans (decodeCommand_encodeCommand_initEnc mode btype)
  | initDec => decide
  | process flush => exact (decodeExact_command _).trans (decodeCommand_encodeCommand_process flush)
  | finish => decide
  | reserved => decide
  | streamHeader version mode btype rsvd =>
    exact (congrArg decodeStreamHeader (leWord_bytesLE _ (by decide))).trans
      (decodeStreamHeader_append version mode btype rsvd)
  | blockHeader len final rsvd =>
    exact (congrArg decodeBlockHeader (leWord_bytesLE _ (by decide))).trans (decodeBlockHeader_append len final rsvd)
  | signatureW32 flags => exact congrArg Instr.signatureW32 (leWord_bytesLE flags (by decide))
  | signatureW64 flags => exact congrArg Instr.signatureW64 (leWord_bytesLE flags (by decide))
  | reference h => exact congrArg Instr.reference (leWord_bytesLE h (by decide))
  | literal chunk => exact congrArg Instr.literal (leWord_bytesLE chunk (by decide))
  | tail bytes => rfl
  | blockTrailer count => exact congrArg Instr.blockTrailer (leWord_bytesLE count (by decide))
  | streamFooter origLen encLen =>
    exact (congrArg decodeStreamFooter (leWord_halves origLen encLen)).trans
      (decodeStreamFooter_append origLen encLen)

/-- R148: every well-formed instruction's context is one that the decoder takes. -/
theorem tailFits_of_wellFormed {i : Instr} (h : WellFormed i = true) : i.context.tailFits = true := by
  cases i with
  | tail bytes => exact h
  | _ => rfl

/-- The decoder splits its input after the context's length. -/
theorem decode_append {ctx : Context} {bs : List Byte} (rest : List Byte) (hfits : ctx.tailFits = true)
    (hlength : bs.length = ctx.length) : decode ctx (bs ++ rest) = .ok (decodeExact ctx bs, rest) := by
  have hnotShort : ¬(bs ++ rest).length < ctx.length := by simp [hlength]
  rw [decode, if_pos hfits, if_neg hnotShort, ← hlength, List.take_left, List.drop_left]

/-- Decode of encode, for every instruction whose tail is no longer than a tail can be. -/
theorem decode_encode_append {i : Instr} (rest : List Byte) (hfits : i.context.tailFits = true) :
    decode i.context (encode i ++ rest) = .ok (i, rest) := by
  rw [decode_append rest hfits (encode_length i), decodeExact_encode]

theorem decode_encode {i : Instr} (hfits : i.context.tailFits = true) : decode i.context (encode i) = .ok (i, []) := by
  simpa using decode_encode_append [] hfits

/-- Settles O10: the decoder splits the bytes after the instruction's own, and those decode to it, constructor by
constructor. -/
theorem decodeOfEncodeIsTheInstruction : Obligations.DecodeOfEncodeIsTheInstruction := by
  unfold Obligations.DecodeOfEncodeIsTheInstruction
  exact fun i rest h => decode_encode_append rest (tailFits_of_wellFormed h)

end Sys2Proof.Proofs.Codec
end

section
/-!
PROOFS. The views, the bridge and the OSB (R101, R102, R203, R204, R477): how many bytes a view still holds after some
were moved, when two regions share an address, what a bridge read answers, and which bytes Drain writes where.
-/

namespace Sys2Proof.Proofs.Views

open Sys2Proof.Machine

variable {s t : State}

/-! ## What a view holds -/

theorem avail_lt (pos cap : Word) : avail pos cap < 2 ^ 32 := by
  have := cap.isLt
  simp only [avail]
  omega

theorem avail_add {pos cap : Word} {count : Nat} (h : count ≤ avail pos cap) :
    avail (pos + BitVec.ofNat 32 count) cap = avail pos cap - count := by
  have hcap := cap.isLt
  simp only [avail] at h ⊢
  rw [BitVec.toNat_add, BitVec.toNat_ofNat]
  omega

theorem inAvail_of_inPos {count : Nat} (hcap : t.inCap = s.inCap) (hpos : t.inPos = s.inPos + BitVec.ofNat 32 count)
    (hle : count ≤ s.inAvail) : t.inAvail = s.inAvail - count := by
  rw [State.inAvail, hcap, hpos]
  exact avail_add hle

theorem outAvail_of_outPos {count : Nat} (hcap : t.outCap = s.outCap)
    (hpos : t.outPos = s.outPos + BitVec.ofNat 32 count) (hle : count ≤ s.outAvail) :
    t.outAvail = s.outAvail - count := by
  rw [State.outAvail, hcap, hpos]
  exact avail_add hle

/-- A view's bytes lie at `count` addresses from its next one on. -/
theorem viewAddr_add (base pos : Word) (count : Nat) :
    viewAddr base (pos + BitVec.ofNat 32 count) = viewAddr base pos + BitVec.ofNat 32 count :=
  (BitVec.add_assoc ..).symm

theorem viewAddr_add_inj {base pos : Word} {i j : Nat} (hi : i < 2 ^ 32) (hj : j < 2 ^ 32)
    (h : viewAddr base (pos + BitVec.ofNat 32 i) = viewAddr base (pos + BitVec.ofNat 32 j)) : i = j := by
  rw [viewAddr_add, viewAddr_add, BitVec.add_right_inj] at h
  have := congrArg BitVec.toNat h
  rw [BitVec.toNat_ofNat, BitVec.toNat_ofNat] at this
  omega

/-! ## Overlap (R477) -/

theorem regionsOverlap_iff (a b : Word) {la lb : Nat} (hla : la < 2 ^ 32) (hlb : lb < 2 ^ 32) :
    regionsOverlap a la b lb = true ↔
      ∃ p q : Nat, p < la ∧ q < lb ∧ a + BitVec.ofNat 32 p = b + BitVec.ofNat 32 q := by
  simp only [regionsOverlap, Bool.and_eq_true, Bool.or_eq_true, decide_eq_true_eq]
  constructor
  · rintro ⟨⟨hla₀, hlb₀⟩, hfirst | hfirst⟩
    · exact ⟨(b - a).toNat, 0, hfirst, hlb₀, by bv_omega⟩
    · exact ⟨0, (a - b).toNat, hla₀, hfirst, by bv_omega⟩
  · rintro ⟨p, q, hp, hq, haddr⟩
    refine ⟨⟨by omega, by omega⟩, ?_⟩
    by_cases hpq : q ≤ p
    · exact .inl (by bv_omega)
    · exact .inr (by bv_omega)

/-- R477, with wrapping: the views overlap where an unconsumed input byte and a free output byte have one address. -/
theorem viewsOverlap_iff (s : State) :
    s.viewsOverlap = true ↔
      ∃ p q : Nat, p < s.inAvail ∧ q < s.outAvail ∧
        viewAddr s.inBase (s.inPos + BitVec.ofNat 32 p) = viewAddr s.outBase (s.outPos + BitVec.ofNat 32 q) := by
  simp only [viewAddr_add]
  exact regionsOverlap_iff _ _ (avail_lt ..) (avail_lt ..)

/-! ## The bridge (R204) -/

/-- Settles O21, by whether the bridge and the view hold n bytes. -/
theorem bridgeReadsInStreamOrder : Obligations.BridgeReadsInStreamOrder := by
  unfold Obligations.BridgeReadsInStreamOrder
  intro s n hk hn
  refine ⟨fun henough => ?enough, fun hshort => ?short⟩
  case enough => rw [readUnit_ok henough, takeBytes_bytes]
  case short =>
    obtain ⟨scr, hstate⟩ := stageBytes_state s.inAvail s
    have hstaged := stageBytes_staged s.inAvail s (by omega)
    rw [takeBytes_bytes] at hstaged
    refine ⟨stageBytes s.inAvail s, readUnit_insufficient hshort, ?_, ?_, ?_⟩
    · rw [inAvail_of_inPos (s := s) (count := s.inAvail) (by rw [hstate]) (by rw [hstate]) le_rfl, Nat.sub_self]
    · rw [hstate]
    · rw [show (stageBytes s.inAvail s).k = s.k + s.inAvail by rw [hstate], hstaged]

/-! ## Drain (R203) -/

/-- The staged bytes that fit are read back at the view's next addresses, in order. -/
theorem drainBytes_written (bs : List Byte) (s : State) (hwf : s.mem.wf = true) {i : Nat}
    (hi : i < min bs.length s.outAvail) :
    bs[i]? = some ((drainBytes bs s).readByte (viewAddr s.outBase (s.outPos + BitVec.ofNat 32 i))) := by
  induction bs generalizing s i with
  | nil => simp at hi
  | cons b rest ih =>
    have hroom : s.outAvail ≠ 0 := by omega
    have hless := outAvail_outByte b s hroom
    have hlt := avail_lt s.outPos s.outCap
    rw [drainBytes, if_neg hroom]
    cases i with
    | zero =>
      obtain ⟨mem, hstate, -, hother⟩ := drainBytes_state rest (outByte b s)
      have hkept := hother (viewAddr s.outBase (s.outPos + BitVec.ofNat 32 0)) fun j hj heq => by
        have hj : j < (outByte b s).outAvail := by omega
        rw [outByte_outBase, outByte_outPos, add_ofNat_succ] at heq
        exact absurd (viewAddr_add_inj (by omega) (by simp only [State.outAvail] at hless hj; omega) heq) (by omega)
      have hread : (drainBytes rest (outByte b s)).readByte (viewAddr s.outBase (s.outPos + BitVec.ofNat 32 0)) =
          (outByte b s).readByte (viewAddr s.outBase (s.outPos + BitVec.ofNat 32 0)) := by
        rw [hstate]; exact hkept
      have hwritten : (outByte b s).readByte (viewAddr s.outBase s.outPos) = b :=
        readByte_writeByte_same s (viewAddr s.outBase s.outPos) b hwf
      rw [hread, show s.outPos + BitVec.ofNat 32 0 = s.outPos from BitVec.add_zero _, hwritten,
        List.getElem?_cons_zero]
    | succ i =>
      have := ih (outByte b s) (writeByte_memWf s _ b hwf) (i := i) (by simp only [List.length_cons] at hi; omega)
      rwa [outByte_outBase, outByte_outPos, add_ofNat_succ] at this

/-- Settles O22: Drain's state and the bytes it leaves alone, and the bytes it writes. -/
theorem drainWritesTheStagedBytes : Obligations.DrainWritesTheStagedBytes := by
  unfold Obligations.DrainWritesTheStagedBytes
  rintro s m rfl hwf
  obtain ⟨mem, hstate, hmemWf, hother⟩ := drain_state s
  refine ⟨?state, fun i hi => drainBytes_written s.osb s hwf hi, fun addr haddr => ?other, ?wf⟩
  case state => rw [hstate]
  case other => rw [hstate]; exact hother addr haddr
  case wf => rw [hstate]; exact hmemWf hwf

end Sys2Proof.Proofs.Views
end

section
/-!
PROOFS. The micro-step (R404): the point at which each token is due, its fetch (R206, R353, R274, R355), and for each role
a rule that reduces a claim about a micro-step's end to the points of its dispatch.
-/

namespace Sys2Proof.Proofs.MicroStep

open Sys2Proof.Machine Sys2Proof.Statements

variable {s t : State} {flush : Bool} {ctx : Context} {P Q R : State → Prop}

/-- Weaker properties at each of a micro-step's ends. -/
theorem meets_imp {P' Q' R' : State → Prop} {o : MicroOutcome} (h : o.Meets P Q R) (hP : ∀ {s}, P s → P' s)
    (hQ : ∀ {s}, Q s → Q' s) (hR : ∀ {s}, R s → R' s) : o.Meets P' Q' R' := by
  cases o with
  | cont s => exact hP h
  | stallInput s => exact hQ h
  | raised s => exact hR h
  | stopped f => exact h
  | refused r => exact h

/-! ## The points of a decoder -/

/-- R404: the resumption points of a decoder at which it reads a token, with the token due there. -/
inductive TokenPoint (s : State) : Context → Prop where
  | streamHeader (stage : s.stage = .header) : TokenPoint s .streamHeader
  | blockHeader (stage : s.stage = .blocks) (ks : s.ks = .prepare) : TokenPoint s .blockHeader
  | signature (stage : s.stage = .blocks) (ks : s.ks = .checkSig) (mode : s.mode = .chameleon) :
    TokenPoint s s.sigContext
  | chunk (stage : s.stage = .blocks) (ks : s.ks = .readChunk) (mode : s.mode = .chameleon) (more : s.cidx ≠ s.n) :
    TokenPoint s s.chunkContext
  | tail (stage : s.stage = .blocks) (ks : s.ks = .readTail) (mode : s.mode = .chameleon) (more : 0 < s.t) :
    TokenPoint s (.tail s.t)
  | trailer (stage : s.stage = .blocks) (ks : s.ks = .trailer) : TokenPoint s .blockTrailer
  | streamFooter (stage : s.stage = .footer) : TokenPoint s .streamFooter

theorem tokenDue_iff : s.tokenDue = some ctx ↔ s.role = .decode ∧ TokenPoint s ctx := by
  constructor
  · intro h
    unfold State.tokenDue at h
    split at h
    · cases h
    · next hrole hstage => cases h; exact ⟨hrole, .streamHeader hstage⟩
    · next hrole hstage => cases h; exact ⟨hrole, .streamFooter hstage⟩
    · cases h
    · next hrole hstage hks => cases h; exact ⟨hrole, .blockHeader hstage hks⟩
    · next hrole hstage hks hmode => cases h; exact ⟨hrole, .signature hstage hks hmode⟩
    · next hrole hstage hks hmode =>
      split at h
      · cases h
      · next hmore => cases h; exact ⟨hrole, .chunk hstage hks hmode hmore⟩
    · next hrole hstage hks hmode =>
      split at h
      · next hmore => cases h; exact ⟨hrole, .tail hstage hks hmode hmore⟩
      · cases h
    · next hrole hstage hks => cases h; exact ⟨hrole, .trailer hstage hks⟩
    · cases h
  · rintro ⟨hrole, hpoint⟩
    cases hpoint with
    | streamHeader stage => simp [State.tokenDue, hrole, stage]
    | blockHeader stage ks => simp [State.tokenDue, hrole, stage, ks]
    | signature stage ks mode => simp [State.tokenDue, hrole, stage, ks, mode]
    | chunk stage ks mode more => simp [State.tokenDue, hrole, stage, ks, mode, more]
    | tail stage ks mode more => simp [State.tokenDue, hrole, stage, ks, mode, more]
    | trailer stage ks => simp [State.tokenDue, hrole, stage, ks]
    | streamFooter stage => simp [State.tokenDue, hrole, stage]

theorem sigContext_cases (s : State) : s.sigContext = .signatureW32 ∨ s.sigContext = .signatureW64 := by
  unfold State.sigContext
  split <;> simp

theorem chunkContext_cases (s : State) : s.chunkContext = .reference ∨ s.chunkContext = .literal := by
  unfold State.chunkContext
  split <;> simp

theorem TokenPoint.ne_command (h : TokenPoint s ctx) : ctx ≠ .command := by
  cases h with
  | signature => rcases sigContext_cases s with h | h <;> simp [h]
  | chunk => rcases chunkContext_cases s with h | h <;> simp [h]
  | _ => simp

/-! ## The fetch of a token -/

/-- R206: the code of a short read with flush. -/
def shortReadCode (ctx : Context) : ErrCode := if ctx = .streamHeader then .malformedHeader else .truncatedStream

/-- R274: of the gathered records, only a signature's units are counted. -/
def countUnit (ctx : Context) (s : State) : State :=
  { s with dcnt := if ctx = .streamHeader ∨ ctx = .streamFooter then s.dcnt else s.dcnt + 4#32 }

/-- The micro-step at which a token is due: a long record is gathered, every other token is one read. -/
def fetchToken (ctx : Context) (flush : Bool) (s : State) : MicroOutcome :=
  if ctx.isGathered then gatherToken ctx (shortReadCode ctx) flush s (countUnit ctx) else unitToken ctx flush s

theorem decCheckSig_eq_fetchToken (flush : Bool) (s : State) :
    decCheckSig flush s = fetchToken s.sigContext flush s := by
  unfold decCheckSig
  rcases sigContext_cases s with h | h <;> rw [h] <;> rfl

theorem unitToken_chunkContext (flush : Bool) (s : State) :
    unitToken s.chunkContext flush s = fetchToken s.chunkContext flush s := by
  rcases chunkContext_cases s with h | h <;> rw [h] <;> rfl

theorem microStep_of_tokenDue (h : s.tokenDue = some ctx) : microStep flush s = fetchToken ctx flush s := by
  obtain ⟨hrole, hpoint⟩ := tokenDue_iff.mp h
  cases hpoint with
  | streamHeader stage => simp only [microStep, hrole, stage]; rfl
  | blockHeader stage ks => simp only [microStep, hrole, stage, decBlockStep, ks]; rfl
  | signature stage ks mode => simp only [microStep, hrole, stage, decBlockStep, ks, mode, decCheckSig_eq_fetchToken]
  | chunk stage ks mode more =>
    simp only [microStep, hrole, stage, decBlockStep, ks, mode, decReadChunk, if_neg more, unitToken_chunkContext]
  | tail stage ks mode more =>
    simp only [microStep, hrole, stage, decBlockStep, ks, mode, decReadTail, if_pos more]; rfl
  | trailer stage ks => simp only [microStep, hrole, stage, decBlockStep, ks]; rfl
  | streamFooter stage => simp only [microStep, hrole, stage]; rfl

/-- The fetch in one equation: a read of the token's unit, then a longer record or the token's run. -/
theorem fetchToken_eq_dread (hctx : ctx ≠ .command) :
    fetchToken ctx flush s = dread ctx.unitLength (shortReadCode ctx) flush s fun unit t =>
      if ctx.isGathered = true ∧ (t.acc ++ unit).length < ctx.length then
        .cont (countUnit ctx { t with acc := t.acc ++ unit })
      else afterToken (exec (decodeExact ctx (ctx.tokenBytes t unit)) t) := by
  have hrun : ∀ bytes t, runToken (decodeExact ctx bytes) t = afterToken (exec (decodeExact ctx bytes) t) :=
    fun bytes t => runToken_eq _ t (decodeExact_stream_isToken ctx bytes hctx)
  unfold fetchToken
  by_cases hgathered : ctx.isGathered = true
  · simp only [hgathered, if_true, gatherToken, Context.unitLength, true_and, Context.tokenBytes, hrun]
  · have hcode : shortReadCode ctx = .truncatedStream := by
      rw [shortReadCode, if_neg]
      rintro rfl
      exact hgathered rfl
    simp only [hgathered, Bool.false_eq_true, if_false, unitToken, Context.unitLength, false_and, Context.tokenBytes, hrun,
      hcode]

theorem fetchToken_meets (hctx : ctx ≠ .command)
    (hpart : ∀ unit t, readUnit ctx.unitLength s = .ok unit t → ctx.isGathered = true →
      (t.acc ++ unit).length < ctx.length → P (countUnit ctx { t with acc := t.acc ++ unit }))
    (hrun : ∀ unit t, readUnit ctx.unitLength s = .ok unit t →
      (ctx.isGathered = true → ctx.length ≤ (t.acc ++ unit).length) →
      (afterToken (exec (decodeExact ctx (ctx.tokenBytes t unit)) t)).Meets P Q R)
    (hshort : ∀ t, readUnit ctx.unitLength s = .insufficient t →
      (flush = false → Q t) ∧ (flush = true → R (raiseError (shortReadCode ctx) t))) :
    (fetchToken ctx flush s).Meets P Q R := by
  rw [fetchToken_eq_dread hctx]
  refine dread_meets (fun unit t hread => ?_) hshort
  split
  · next h => exact hpart unit t hread h.1 h.2
  · next h => exact hrun unit t hread fun hgathered => Nat.le_of_not_lt fun hlt => h ⟨hgathered, hlt⟩

/-! ## The rules for a micro-step -/

/-- A point without a rule: FINISHED, which the loop never reaches, or a combination that R404's table leaves out. -/
def Unruled (s : State) : Prop := s.stage = .finished ∨ ¬s.pointAssigned

/-- R436. -/
theorem microStep_of_unruled (h : Unruled s) : microStep flush s = unassignedPoint s := by
  obtain hstage | hpoint := h
  · simp [microStep, hstage]
  · have hstage : s.stage = .blocks := by
      by_contra hne
      exact hpoint fun heq => absurd heq hne
    simp only [State.pointAssigned, hstage, true_imp_iff, not_or, not_and] at hpoint
    cases hrole : s.role with
    | encode =>
      simp only [microStep, hstage, hrole, encBlockStep]
      split <;> simp_all
    | decode =>
      simp only [microStep, hstage, hrole, decBlockStep]
      split <;> simp_all

/-- R404: a decoder's point at which no token is due. -/
theorem microStep_decode_of_no_token (hrole : s.role = .decode) (hnone : s.tokenDue = none) (hruled : ¬Unruled s) :
    s.stage = .blocks ∧
      (s.mode = .chameleon ∧ s.ks = .readChunk ∧ s.cidx = s.n ∧ microStep flush s = .cont { s with ks := .readTail } ∨
        s.mode = .chameleon ∧ s.ks = .readTail ∧ s.t = 0 ∧ microStep flush s = .cont { s with ks := .trailer } ∨
        s.mode = .copy ∧ s.ks = .copyBytes ∧ microStep flush s = decCopyBytes flush s) := by
  obtain ⟨hstage, hpoint⟩ := not_or.mp hruled
  rw [not_not] at hpoint
  cases hstage : s.stage with
  | header => simp [State.tokenDue, hrole, hstage] at hnone
  | footer => simp [State.tokenDue, hrole, hstage] at hnone
  | finished => contradiction
  | blocks =>
    refine ⟨rfl, ?_⟩
    obtain hks | ⟨-, hks⟩ | ⟨hmode, hks | hks | ⟨-, hks⟩⟩ | ⟨hmode, hks⟩ := hpoint hstage
    · simp [State.tokenDue, hrole, hstage, hks] at hnone
    · simp [State.tokenDue, hrole, hstage, hks] at hnone
    · simp [State.tokenDue, hrole, hstage, hks, hmode] at hnone
    · have hlast : s.cidx = s.n := by simpa [State.tokenDue, hrole, hstage, hks, hmode] using hnone
      simp [microStep, hstage, hrole, decBlockStep, hks, hmode, decReadChunk, hlast]
    · have hnoTail : s.t = 0 := by simpa [State.tokenDue, hrole, hstage, hks, hmode] using hnone
      simp [microStep, hstage, hrole, decBlockStep, hks, hmode, decReadTail, hnoTail]
    · simp [microStep, hstage, hrole, decBlockStep, hks, hmode]

/-- A claim about a decoder's micro-step, point by point. -/
theorem microStep_decode_meets (hrole : s.role = .decode)
    (htoken : ∀ ctx, TokenPoint s ctx → (fetchToken ctx flush s).Meets P Q R)
    (hlastChunk : s.stage = .blocks → s.mode = .chameleon → s.ks = .readChunk → s.cidx = s.n →
      P { s with ks := .readTail })
    (hnoTail : s.stage = .blocks → s.mode = .chameleon → s.ks = .readTail → s.t = 0 → P { s with ks := .trailer })
    (hcopy : s.stage = .blocks → s.mode = .copy → s.ks = .copyBytes → (decCopyBytes flush s).Meets P Q R)
    (hunruled : Unruled s → R (raiseError .invalidStateTransition s)) :
    (microStep flush s).Meets P Q R := by
  by_cases hu : Unruled s
  · rw [microStep_of_unruled hu]
    exact hunruled hu
  · cases hdue : s.tokenDue with
    | some ctx =>
      rw [microStep_of_tokenDue hdue]
      exact htoken ctx (tokenDue_iff.mp hdue).2
    | none =>
      obtain ⟨hstage, ⟨hmode, hks, hlast, heq⟩ | ⟨hmode, hks, ht, heq⟩ | ⟨hmode, hks, heq⟩⟩ :=
        microStep_decode_of_no_token (flush := flush) hrole hdue hu
      · rw [heq]; exact hlastChunk hstage hmode hks hlast
      · rw [heq]; exact hnoTail hstage hmode hks ht
      · rw [heq]; exact hcopy hstage hmode hks

/-- A COPY decoder's body byte. -/
theorem decCopyBytes_meets
    (hdone : s.crem = 0 → P { s with ks := .trailer })
    (hbyte : ∀ bytes t, s.crem ≠ 0 → readUnit 1 s = .ok bytes t →
      P { emit bytes t with dcnt := t.dcnt + 1#32, crem := t.crem - 1 })
    (hshort : ∀ t, s.crem ≠ 0 → readUnit 1 s = .insufficient t →
      (flush = false → Q t) ∧ (flush = true → R (raiseError .truncatedStream t))) :
    (decCopyBytes flush s).Meets P Q R := by
  unfold decCopyBytes
  split
  · next h => exact hdone h
  · next h => exact dread_meets (fun bytes t hread => hbyte bytes t h hread) (fun t hread => hshort t h hread)

/-- The encoder's PREPARE_NEW_BLOCK (R234). -/
def openBlock (s : State) : State :=
  { s with
    blen := 0, sig := 0#64, shift := 0, body := []
    ks := match s.mode with
      | .chameleon => .checkSig
      | .copy => .copyBytes }

theorem microStep_writeHeader (hrole : s.role = .encode) (hstage : s.stage = .header) :
    microStep flush s = .cont { s with osb := s.headerBytes, stage := .blocks, ks := .prepare } := by
  simp only [microStep, hstage, hrole, encWriteHeader]

theorem microStep_writeFooter (hrole : s.role = .encode) (hstage : s.stage = .footer) :
    microStep flush s = .cont { s with osb := s.footerBytes, fin := true } := by
  simp only [microStep, hstage, hrole, encWriteFooter]

theorem microStep_encPrepare (hrole : s.role = .encode) (hstage : s.stage = .blocks) (hks : s.ks = .prepare) :
    microStep flush s = .cont (openBlock s) := by
  simp only [microStep, hstage, hrole, encBlockStep, hks]; rfl

theorem microStep_encCheckSig (hrole : s.role = .encode) (hstage : s.stage = .blocks) (hmode : s.mode = .chameleon)
    (hks : s.ks = .checkSig) : microStep flush s = encCheckSig s := by
  simp only [microStep, hstage, hrole, encBlockStep, hks, hmode]

theorem microStep_encReadChunk (hrole : s.role = .encode) (hstage : s.stage = .blocks) (hmode : s.mode = .chameleon)
    (hks : s.ks = .readChunk) : microStep flush s = encReadChunk flush s := by
  simp only [microStep, hstage, hrole, encBlockStep, hks, hmode]

theorem microStep_encCopyBytes (hrole : s.role = .encode) (hstage : s.stage = .blocks) (hmode : s.mode = .copy)
    (hks : s.ks = .copyBytes) : microStep flush s = encCopyBytes flush s := by
  simp only [microStep, hstage, hrole, encBlockStep, hks, hmode]

/-- A claim about an encoder's micro-step, point by point. -/
theorem microStep_encode_meets (hrole : s.role = .encode)
    (hheader : s.stage = .header → P { s with osb := s.headerBytes, stage := .blocks, ks := .prepare })
    (hprepare : s.stage = .blocks → s.ks = .prepare → P (openBlock s))
    (hfull : s.stage = .blocks → s.mode = .chameleon → s.ks = .checkSig → s.shift = s.groupWidth →
      P (closeBlock false s))
    (hnext : s.stage = .blocks → s.mode = .chameleon → s.ks = .checkSig → s.shift ≠ s.groupWidth →
      P { s with ks := .readChunk })
    (hchunk : s.stage = .blocks → s.mode = .chameleon → s.ks = .readChunk → (encReadChunk flush s).Meets P Q R)
    (hcopy : s.stage = .blocks → s.mode = .copy → s.ks = .copyBytes → (encCopyBytes flush s).Meets P Q R)
    (hfooter : s.stage = .footer → P { s with osb := s.footerBytes, fin := true })
    (hunruled : Unruled s → R (raiseError .invalidStateTransition s)) :
    (microStep flush s).Meets P Q R := by
  by_cases hu : Unruled s
  · rw [microStep_of_unruled hu]
    exact hunruled hu
  obtain ⟨hstage, hpoint⟩ := not_or.mp hu
  rw [not_not] at hpoint
  cases hstage : s.stage with
  | finished => contradiction
  | header => rw [microStep_writeHeader hrole hstage]; exact hheader hstage
  | footer => rw [microStep_writeFooter hrole hstage]; exact hfooter hstage
  | blocks =>
    obtain hks | ⟨hdec, -⟩ | ⟨hmode, hks | hks | ⟨hdec, -⟩⟩ | ⟨hmode, hks⟩ := hpoint hstage
    · rw [microStep_encPrepare hrole hstage hks]; exact hprepare hstage hks
    · simp [hrole] at hdec
    · rw [microStep_encCheckSig hrole hstage hmode hks, encCheckSig]
      split
      · next h => exact hfull hstage hmode hks h
      · next h => exact hnext hstage hmode hks h
    · rw [microStep_encReadChunk hrole hstage hmode hks]; exact hchunk hstage hmode hks
    · simp [hrole] at hdec
    · rw [microStep_encCopyBytes hrole hstage hmode hks]; exact hcopy hstage hmode hks

/-- A CHAMELEON encoder's chunk. -/
theorem encReadChunk_meets
    (hchunk : ∀ bytes t, readUnit 4 s = .ok bytes t → P (encodeChunk bytes t))
    (hshort : ∀ t, readUnit 4 s = .insufficient t → (flush = false → Q t) ∧ (flush = true → P (encodeTail t))) :
    (encReadChunk flush s).Meets P Q R := by
  unfold encReadChunk
  split
  · next bytes t h => exact hchunk bytes t h
  · next t h =>
    split
    · next hf => exact (hshort t h).2 hf
    · next hf => exact (hshort t h).1 (by simpa using hf)

/-- A COPY encoder's byte. -/
theorem encCopyBytes_meets
    (hfull : s.blen = s.blockBytes → P (closeBlock false s))
    (hbyte : ∀ bytes t, s.blen ≠ s.blockBytes → readUnit 1 s = .ok bytes t →
      P { t with body := t.body ++ bytes, blen := t.blen + 1 })
    (hshort : ∀ t, s.blen ≠ s.blockBytes → readUnit 1 s = .insufficient t →
      (flush = false → Q t) ∧ (flush = true → P (closeBlock true t))) :
    (encCopyBytes flush s).Meets P Q R := by
  unfold encCopyBytes
  split
  · next h => exact hfull h
  · next h =>
    split
    · next bytes t hread => exact hbyte bytes t h hread
    · next t hread =>
      split
      · next hf => exact (hshort t h hread).2 hf
      · next hf => exact (hshort t h hread).1 (by simpa using hf)

/-! ## The tokens and their reads -/

theorem decode_eq_ok_nil {bytes : List Byte} {i : Instr} (h : decode ctx bytes = .ok (i, [])) :
    ctx.length = bytes.length ∧ decodeExact ctx bytes = i := by
  unfold decode at h
  split at h
  · split at h
    · cases h
    · next hlong =>
      simp only [Except.ok.injEq, Prod.mk.injEq, List.drop_eq_nil_iff] at h
      obtain ⟨hexact, hdrop⟩ := h
      have hlength : ctx.length = bytes.length := by omega
      rw [hlength, List.take_length] at hexact
      exact ⟨hlength, hexact⟩
  · cases h

/-- Settles O35: the fetch in one equation, its unit the token's last; and the two points that read no token. -/
theorem microStepRunsDecodedToken : Obligations.MicroStepRunsDecodedToken := by
  unfold Obligations.MicroStepRunsDecodedToken
  refine ⟨fun flush s t ctx unit i hdue hread hdecode => ?token, fun flush s hrole hstage hmode => ⟨?lastChunk, ?noTail⟩⟩
  case token =>
    obtain ⟨hlength, hexact⟩ := decode_eq_ok_nil hdecode
    have hwhole : ¬(ctx.isGathered = true ∧ (t.acc ++ unit).length < ctx.length) := by
      rintro ⟨hgathered, hlt⟩
      simp [Context.tokenBytes, hgathered] at hlength
      simp at hlt
      omega
    rw [microStep_of_tokenDue hdue, fetchToken_eq_dread (tokenDue_iff.mp hdue).2.ne_command]
    simp only [dread, hread, if_neg hwhole, hexact]
  case lastChunk =>
    intro hks hlast
    simp [microStep, hstage, hrole, decBlockStep, hks, hmode, decReadChunk, hlast]
  case noTail =>
    intro hks ht
    simp [microStep, hstage, hrole, decBlockStep, hks, hmode, decReadTail, ht]

/-- Settles O36: the fetch in one equation, its unit not the record's last. -/
theorem longRecordsAreGatheredByUnits : Obligations.LongRecordsAreGatheredByUnits := by
  unfold Obligations.LongRecordsAreGatheredByUnits
  intro flush s t ctx unit hdue hread hgathered hlt
  rw [microStep_of_tokenDue hdue, fetchToken_eq_dread (tokenDue_iff.mp hdue).2.ne_command]
  simp only [dread, hread, if_pos (And.intro hgathered hlt), countUnit]

/-- Settles O37: the fetch's short read, and the short read of a COPY body byte. -/
theorem decoderShortReadStallsOrRaises : Obligations.DecoderShortReadStallsOrRaises := by
  unfold Obligations.DecoderShortReadStallsOrRaises
  refine ⟨fun s t ctx hdue hread => ?token, fun s t hrole hstage hmode hks hmore hread => ?copy⟩
  case token =>
    simp only [microStep_of_tokenDue hdue, fetchToken_eq_dread (tokenDue_iff.mp hdue).2.ne_command, dread, hread]
    exact ⟨rfl, rfl⟩
  case copy =>
    simp only [microStep, hstage, hrole, decBlockStep, hks, hmode, decCopyBytes, if_neg hmore, dread, hread]
    exact ⟨rfl, rfl⟩

end Sys2Proof.Proofs.MicroStep
end

section
/-!
PROOFS. The wire tokens' meanings (R274 to R278, R317, R320, R354, R355): one equation for each way a token ends, and
from these a rule for the run of the token that is due.
-/

namespace Sys2Proof.Proofs.Tokens

open Sys2Proof.Machine Sys2Proof.Statements Sys2Proof.Proofs.StreamHeader Sys2Proof.Proofs.MicroStep

variable {s t : State} {flush : Bool} {ctx : Context} {P Q R : State → Prop}

/-! ## The block header (R317) -/

/-- R317: a reserved bit, a length over the block size, or a block that is neither final nor full. -/
def BadBlockHeader (len : Half) (final : Bool) (rsvd : BitVec 15) (s : State) : Prop :=
  rsvd ≠ 0#15 ∨ s.blockBytes < len.toNat ∨ (final = false ∧ len.toNat ≠ s.blockBytes)

variable {len : Half} {final : Bool} {rsvd : BitVec 15}

theorem exec_blockHeader_of_bad (h : BadBlockHeader len final rsvd s) :
    exec (.blockHeader len final rsvd) s = .next (raiseError .malformedHeader s) :=
  if_pos h

theorem exec_blockHeader_of_chameleon (h : ¬BadBlockHeader len final rsvd s) (hmode : s.mode = .chameleon) :
    exec (.blockHeader len final rsvd) s = .next { s with
      blen := len.toNat, bfinal := final, dcnt := 0#32, n := len.toNat / 4, t := len.toNat % 4, cidx := 0
      acc := [], ks := .checkSig } := by
  refine (if_neg h).trans ?_
  simp only [hmode]

theorem exec_blockHeader_of_copy (h : ¬BadBlockHeader len final rsvd s) (hmode : s.mode = .copy) :
    exec (.blockHeader len final rsvd) s = .next { s with
      blen := len.toNat, bfinal := final, dcnt := 0#32, crem := len.toNat, ks := .copyBytes } := by
  refine (if_neg h).trans ?_
  simp only [hmode]

theorem blockBytes_eq {blk : Nat} (h : s.btype = .bt0 ∧ blk = 128 ∨ s.btype = .bt1 ∧ blk = 256) : s.blockBytes = blk := by
  obtain ⟨hbtype, rfl⟩ | ⟨hbtype, rfl⟩ := h <;> simp [State.blockBytes, State.groupWidth, hbtype, BlockType.flagCount]

/-- Settles O39: each clause is the block header's equation for that end, with the block size written out. -/
theorem blockHeaderIsCheckedAndSetsTheBlock : Obligations.BlockHeaderIsCheckedAndSetsTheBlock := by
  unfold Obligations.BlockHeaderIsCheckedAndSetsTheBlock
  intro s len final rsvd blk hblk
  obtain rfl := blockBytes_eq hblk
  have hgood : rsvd = 0#15 → len.toNat ≤ s.blockBytes → (final = false → len.toNat = s.blockBytes) →
      ¬BadBlockHeader len final rsvd s := by
    rintro hrsvd hlen hfull (h | h | ⟨hfinal, h⟩)
    · exact h hrsvd
    · omega
    · exact h (hfull hfinal)
  refine ⟨exec_blockHeader_of_bad, fun hrsvd hlen hfull hmode => ?_, fun hrsvd hlen hfull hmode => ?_⟩
  · exact exec_blockHeader_of_chameleon (hgood hrsvd hlen hfull) hmode
  · exact exec_blockHeader_of_copy (hgood hrsvd hlen hfull) hmode

/-! ## The signature and the chunks (R274 to R278) -/

/-- Settles O40: both are the signature's one meaning. -/
theorem signatureWordIsKept : Obligations.SignatureWordIsKept := by
  unfold Obligations.SignatureWordIsKept
  exact fun s => ⟨fun flags => rfl, fun flags => rfl⟩

theorem exec_reference (h : Half) (s : State) :
    exec (.reference h) s = .next { s with
      dcnt := s.dcnt + 2#32, osb := s.osb ++ bytesLE 4 (s.entry h).toNat, cidx := s.cidx + 1 } := rfl

theorem exec_literal (c : Word) (s : State) :
    exec (.literal c) s = .next { s with
      dcnt := s.dcnt + 4#32, osb := s.osb ++ bytesLE 4 c.toNat, cidx := s.cidx + 1
      ht := (s.setEntry (chunkHash c) c).ht } := rfl

theorem exec_tail (bytes : List Byte) (s : State) :
    exec (.tail bytes) s = .next { s with
      dcnt := s.dcnt + BitVec.ofNat 32 bytes.length, osb := s.osb ++ bytes, ks := .trailer } := rfl

/-- Settles O41. -/
theorem referenceOutputsItsBucket : Obligations.ReferenceOutputsItsBucket := by
  unfold Obligations.ReferenceOutputsItsBucket
  exact fun s h => exec_reference h s

/-- Settles O42: the literal's equation, and what a table write does to the buckets. -/
theorem literalIsOutputAndRemembered : Obligations.LiteralIsOutputAndRemembered := by
  unfold Obligations.LiteralIsOutputAndRemembered
  exact fun s c => ⟨_, exec_literal c s, rfl,
    fun hwf => ⟨entry_setEntry_same s (chunkHash c) c hwf, setEntry_htWf s (chunkHash c) c hwf⟩,
    fun g hg => entry_setEntry_other s (chunkHash c) g c hg⟩

/-- Settles O43: the reference finds in the literal's bucket what the literal wrote there. -/
theorem referenceRepeatsTheLiteral : Obligations.ReferenceRepeatsTheLiteral := by
  unfold Obligations.ReferenceRepeatsTheLiteral
  intro s c hwf
  refine ⟨_, rfl, ?_, ?_⟩
  · show s.osb ++ chunkBytes c ++ chunkBytes ((s.setEntry (chunkHash c) c).entry (chunkHash c)) = _
    rw [entry_setEntry_same s (chunkHash c) c hwf]
  · show s.dcnt + 4#32 + 2#32 = _
    rw [BitVec.add_assoc]
    rfl

/-- Settles O44. -/
theorem tailIsOutputVerbatim : Obligations.TailIsOutputVerbatim := by
  unfold Obligations.TailIsOutputVerbatim
  exact fun s bytes => exec_tail bytes s

/-! ## The block trailer and the stream footer (R320, R355) -/

theorem exec_blockTrailer_of_ne {count : Word} (h : count ≠ s.dcnt) :
    exec (.blockTrailer count) s = .next (raiseError .malformedHeader s) :=
  if_pos h

theorem exec_blockTrailer_of_final {count : Word} (h : count = s.dcnt) (hfinal : s.bfinal = true) :
    exec (.blockTrailer count) s = .next { s with stage := .footer, footStart := s.totalRead, acc := [] } := by
  simp [exec, execBlockTrailer, h, hfinal]

theorem exec_blockTrailer_of_open {count : Word} (h : count = s.dcnt) (hfinal : s.bfinal = false) :
    exec (.blockTrailer count) s = .next { s with ks := .prepare } := by
  simp [exec, execBlockTrailer, h, hfinal]

/-- Settles O45. -/
theorem blockTrailerMustMatch : Obligations.BlockTrailerMustMatch := by
  unfold Obligations.BlockTrailerMustMatch
  exact fun s count => ⟨exec_blockTrailer_of_ne, exec_blockTrailer_of_final, exec_blockTrailer_of_open⟩

theorem exec_streamFooter_of_ne {origLen encLen : DWord} (h : origLen ≠ s.totalWritten ∨ encLen ≠ s.footStart) :
    exec (.streamFooter origLen encLen) s = .next (raiseError .malformedHeader { s with acc := [] }) :=
  if_pos h

theorem exec_streamFooter_of_eq {origLen encLen : DWord} (h : ¬(origLen ≠ s.totalWritten ∨ encLen ≠ s.footStart)) :
    exec (.streamFooter origLen encLen) s = .next { s with acc := [], fin := true } :=
  if_neg h

/-- Settles O46. -/
theorem streamFooterMustMatch : Obligations.StreamFooterMustMatch := by
  unfold Obligations.StreamFooterMustMatch
  intro s origLen encLen
  exact ⟨exec_streamFooter_of_ne, fun horig henc => exec_streamFooter_of_eq (by simp [horig, henc])⟩

/-! ## The run of the token that is due -/

/-- The token that is due has been read, and `t` is the state after the read: each way its run can end. -/
theorem tokenRun_meets {bytes : List Byte} (hpoint : TokenPoint s ctx) (herr : t.err = .none)
    (hraise : ∀ code, code = .malformedHeader ∨ code = .unsupportedMode →
      R (raiseError code t) ∧ R (raiseError code { t with acc := [] }))
    (hstreamHeader : s.stage = .header → ∀ m bt,
      P { t with acc := [], mode := m, btype := bt, stage := .blocks, ks := .prepare })
    (hblockHeader : s.stage = .blocks → s.ks = .prepare → ∀ (len : Half) final, len.toNat ≤ t.blockBytes →
      (t.mode = .chameleon → P { t with
        blen := len.toNat, bfinal := final, dcnt := 0#32, n := len.toNat / 4, t := len.toNat % 4, cidx := 0
        acc := [], ks := .checkSig }) ∧
      (t.mode = .copy → P { t with
        blen := len.toNat, bfinal := final, dcnt := 0#32, crem := len.toNat, ks := .copyBytes }))
    (hsignature : s.stage = .blocks → s.ks = .checkSig → s.mode = .chameleon → ∀ flags, P (takeSignature flags t))
    (hchunk : s.stage = .blocks → s.ks = .readChunk → s.mode = .chameleon → s.cidx ≠ s.n →
      (∀ h, P { t with dcnt := t.dcnt + 2#32, osb := t.osb ++ bytesLE 4 (t.entry h).toNat, cidx := t.cidx + 1 }) ∧
      ∀ c, P { t with
        dcnt := t.dcnt + 4#32, osb := t.osb ++ bytesLE 4 c.toNat, cidx := t.cidx + 1
        ht := (t.setEntry (chunkHash c) c).ht })
    (htail : s.stage = .blocks → s.ks = .readTail → s.mode = .chameleon → 0 < s.t → P { t with
      dcnt := t.dcnt + BitVec.ofNat 32 bytes.length, osb := t.osb ++ bytes, ks := .trailer })
    (htrailer : s.stage = .blocks → s.ks = .trailer →
      P { t with stage := .footer, footStart := t.totalRead, acc := [] } ∧ P { t with ks := .prepare })
    (hstreamFooter : s.stage = .footer → P { t with acc := [], fin := true }) :
    (afterToken (exec (decodeExact ctx bytes) t)).Meets P Q R := by
  have hcont : ∀ {i : Instr} {u : State}, exec i t = .next u → u.err = .none → P u →
      (afterToken (exec i t)).Meets P Q R := fun hexec hu hP => by
    rw [hexec, afterToken_next_meets, if_pos hu]; exact hP
  have herror : ∀ {i : Instr} {u : State} {code : ErrCode}, exec i t = .next (raiseError code u) →
      code = .malformedHeader ∨ code = .unsupportedMode → R (raiseError code u) →
      (afterToken (exec i t)).Meets P Q R := fun hexec hcode hR => by
    rw [hexec, afterToken_next_meets, if_neg (by rcases hcode with rfl | rfl <;> simp)]; exact hR
  have hmalformed := hraise .malformedHeader (.inl rfl)
  cases hpoint with
  | streamHeader stage =>
    simp only [decodeExact, decodeStreamHeader]
    generalize BitVec.extractLsb' 0 24 _ = version, BitVec.extractLsb' 24 8 _ = mode,
      BitVec.extractLsb' 32 8 _ = btype, BitVec.extractLsb' 40 24 _ = rsvd
    by_cases hversion : version = Config.formatVersion
    · subst hversion
      cases hmode : Mode.ofByte mode with
      | none => exact herror (exec_streamHeader_of_mode_none t hmode) (.inr rfl) (hraise _ (.inr rfl)).2
      | some m =>
        cases hbtype : BlockType.ofByte btype with
        | none => exact herror (exec_streamHeader_of_blockType_none t hmode hbtype) (.inl rfl) hmalformed.2
        | some bt =>
          by_cases hrsvd : rsvd = 0#24
          · subst hrsvd
            exact hcont (exec_streamHeader_of_good t hmode hbtype) herr (hstreamHeader stage m bt)
          · exact herror (exec_streamHeader_of_rsvd_ne t hmode hbtype hrsvd) (.inl rfl) hmalformed.2
    · exact herror (exec_streamHeader_of_version_ne t hversion) (.inl rfl) hmalformed.2
  | blockHeader stage ks =>
    simp only [decodeExact, decodeBlockHeader]
    generalize BitVec.extractLsb' 0 16 _ = len, BitVec.getLsbD _ 16 = final, BitVec.extractLsb' 17 15 _ = rsvd
    by_cases hbad : BadBlockHeader len final rsvd t
    · exact herror (exec_blockHeader_of_bad hbad) (.inl rfl) hmalformed.1
    · have hlen : len.toNat ≤ t.blockBytes := Nat.le_of_not_lt fun hlt => hbad (.inr (.inl hlt))
      cases hmode : t.mode with
      | chameleon =>
        exact hcont (exec_blockHeader_of_chameleon hbad hmode) herr ((hblockHeader stage ks len final hlen).1 hmode)
      | copy => exact hcont (exec_blockHeader_of_copy hbad hmode) herr ((hblockHeader stage ks len final hlen).2 hmode)
  | signature stage ks mode =>
    rcases sigContext_cases s with h | h <;> rw [h]
    · exact hcont rfl herr (hsignature stage ks mode ((leWord 32 bytes).setWidth 64))
    · exact hcont rfl herr (hsignature stage ks mode (leWord 64 bytes))
  | chunk stage ks mode more =>
    rcases chunkContext_cases s with h | h <;> rw [h]
    · exact hcont (exec_reference (leWord 16 bytes) t) herr ((hchunk stage ks mode more).1 _)
    · exact hcont (exec_literal (leWord 32 bytes) t) herr ((hchunk stage ks mode more).2 _)
  | tail stage ks mode more => exact hcont (exec_tail bytes t) herr (htail stage ks mode more)
  | trailer stage ks =>
    simp only [decodeExact]
    by_cases hcount : leWord 32 bytes = t.dcnt
    · cases hfinal : t.bfinal with
      | true => exact hcont (exec_blockTrailer_of_final hcount hfinal) herr (htrailer stage ks).1
      | false => exact hcont (exec_blockTrailer_of_open hcount hfinal) herr (htrailer stage ks).2
    · exact herror (exec_blockTrailer_of_ne hcount) (.inl rfl) hmalformed.1
  | streamFooter stage =>
    simp only [decodeExact, decodeStreamFooter]
    generalize BitVec.extractLsb' 0 64 _ = origLen, BitVec.extractLsb' 64 64 _ = encLen
    by_cases hne : origLen ≠ t.totalWritten ∨ encLen ≠ t.footStart
    · exact herror (exec_streamFooter_of_ne hne) (.inl rfl) hmalformed.2
    · exact hcont (exec_streamFooter_of_eq hne) herr (hstreamFooter stage)

end Sys2Proof.Proofs.Tokens
end

section
/-!
PROOFS. What a PROCESS moves and what it leaves alone (R35, R36, R52 (5), R103, R104, R322, R481, R404): a frame that
Drain, every micro-step and so the whole loop keep, with the counts of bytes consumed and written.
-/

namespace Sys2Proof.Proofs.ProcessFrame

open Sys2Proof.Machine Sys2Proof.Statements Sys2Proof.Proofs.HostCommands Sys2Proof.Proofs.ErrorLatch
open Sys2Proof.Proofs.Views Sys2Proof.Proofs.MicroStep

variable {s t u : State} {flush : Bool}

/-! ## The frame -/

/-- Everything of the host's and the platform's is kept but IN_POS, OUT_POS and memory; and ACTIVE and ROLE are. -/
def KeepsHost (s t : State) : Prop :=
  t = { s with
    inPos := t.inPos, outPos := t.outPos, result := t.result, err := t.err, mode := t.mode, btype := t.btype
    stage := t.stage, ks := t.ks, fin := t.fin, flushed := t.flushed, totalRead := t.totalRead
    totalWritten := t.totalWritten, osb := t.osb, scr := t.scr, k := t.k, blen := t.blen, sig := t.sig
    shift := t.shift, body := t.body, bfinal := t.bfinal, n := t.n, t := t.t, cidx := t.cidx, crem := t.crem
    dcnt := t.dcnt, acc := t.acc, footStart := t.footStart, ht := t.ht, mem := t.mem }

/-- The mode, the block type and the fields that only a decoder writes. -/
def KeepsDecoderFields (s t : State) : Prop :=
  t.mode = s.mode ∧ t.btype = s.btype ∧ t.bfinal = s.bfinal ∧ t.n = s.n ∧ t.t = s.t ∧ t.cidx = s.cidx ∧
    t.crem = s.crem ∧ t.dcnt = s.dcnt ∧ t.acc = s.acc ∧ t.footStart = s.footStart

/-- The fields that only an encoder writes. -/
def KeepsEncoderFields (s t : State) : Prop := t.shift = s.shift ∧ t.body = s.body ∧ t.flushed = s.flushed

/-- `a` input bytes are consumed and `b` output bytes written, each inside its view, and no other byte of memory. -/
structure Moved (s t : State) (a b : Nat) : Prop where
  inRoom : a ≤ s.inAvail
  outRoom : b ≤ s.outAvail
  inPos : t.inPos = s.inPos + BitVec.ofNat 32 a
  totalRead : t.totalRead = s.totalRead + BitVec.ofNat 64 a
  outPos : t.outPos = s.outPos + BitVec.ofNat 32 b
  totalWritten : t.totalWritten = s.totalWritten + BitVec.ofNat 64 b
  memory : ∀ addr : Word, (∀ p < b, addr ≠ viewAddr s.outBase (s.outPos + BitVec.ofNat 32 p)) →
    t.readByte addr = s.readByte addr

/-- What PROCESS keeps, from any state of its loop to any later one. -/
structure Frame (s t : State) : Prop where
  host : KeepsHost s t
  encoder : s.role = .encode → KeepsDecoderFields s t ∧ (s.mode = .copy → t.ht = s.ht)
  decoder : s.role = .decode → KeepsEncoderFields s t
  moved : ∃ a b, Moved s t a b

theorem KeepsHost.inCap (h : KeepsHost s t) : t.inCap = s.inCap := by rw [h]
theorem KeepsHost.outCap (h : KeepsHost s t) : t.outCap = s.outCap := by rw [h]
theorem KeepsHost.inBase (h : KeepsHost s t) : t.inBase = s.inBase := by rw [h]
theorem KeepsHost.outBase (h : KeepsHost s t) : t.outBase = s.outBase := by rw [h]
theorem KeepsHost.role (h : KeepsHost s t) : t.role = s.role := by rw [h]
theorem KeepsHost.active (h : KeepsHost s t) : t.active = s.active := by rw [h]
theorem KeepsHost.memMap (h : KeepsHost s t) : t.memMap = s.memMap := by rw [h]

theorem KeepsHost.trans (h₁ : KeepsHost s t) (h₂ : KeepsHost t u) : KeepsHost s u := by
  unfold KeepsHost
  conv_lhs => rw [h₂, h₁]

theorem Moved.trans {a b c d : Nat} (hcapIn : t.inCap = s.inCap) (hcapOut : t.outCap = s.outCap)
    (hbase : t.outBase = s.outBase) (h₁ : Moved s t a b) (h₂ : Moved t u c d) : Moved s u (a + c) (b + d) := by
  have hin := h₂.inRoom
  have hout := h₂.outRoom
  rw [inAvail_of_inPos hcapIn h₁.inPos h₁.inRoom] at hin
  rw [outAvail_of_outPos hcapOut h₁.outPos h₁.outRoom] at hout
  have hroomIn := h₁.inRoom
  have hroomOut := h₁.outRoom
  exact {
    inRoom := by omega
    outRoom := by omega
    inPos := by rw [h₂.inPos, h₁.inPos, BitVec.add_assoc, BitVec.ofNat_add]
    totalRead := by rw [h₂.totalRead, h₁.totalRead, BitVec.add_assoc, BitVec.ofNat_add]
    outPos := by rw [h₂.outPos, h₁.outPos, BitVec.add_assoc, BitVec.ofNat_add]
    totalWritten := by rw [h₂.totalWritten, h₁.totalWritten, BitVec.add_assoc, BitVec.ofNat_add]
    memory := fun addr haddr => by
      rw [h₂.memory addr, h₁.memory addr fun p hp => haddr p (by omega)]
      intro p hp
      rw [h₁.outPos, hbase, BitVec.add_assoc, ← BitVec.ofNat_add]
      exact haddr (b + p) (by omega) }

theorem Frame.trans (h₁ : Frame s t) (h₂ : Frame t u) : Frame s u where
  host := h₁.host.trans h₂.host
  encoder hrole := by
    obtain ⟨⟨e₁, e₂, e₃, e₄, e₅, e₆, e₇, e₈, e₉, e₁₀⟩, hht⟩ := h₁.encoder hrole
    obtain ⟨⟨f₁, f₂, f₃, f₄, f₅, f₆, f₇, f₈, f₉, f₁₀⟩, hht'⟩ := h₂.encoder (h₁.host.role.trans hrole)
    exact ⟨⟨f₁.trans e₁, f₂.trans e₂, f₃.trans e₃, f₄.trans e₄, f₅.trans e₅, f₆.trans e₆, f₇.trans e₇, f₈.trans e₈,
      f₉.trans e₉, f₁₀.trans e₁₀⟩, fun hmode => (hht' (e₁.trans hmode)).trans (hht hmode)⟩
  decoder hrole := by
    obtain ⟨e₁, e₂, e₃⟩ := h₁.decoder hrole
    obtain ⟨f₁, f₂, f₃⟩ := h₂.decoder (h₁.host.role.trans hrole)
    exact ⟨f₁.trans e₁, f₂.trans e₂, f₃.trans e₃⟩
  moved := by
    obtain ⟨a, b, hm₁⟩ := h₁.moved
    obtain ⟨c, d, hm₂⟩ := h₂.moved
    exact ⟨a + c, b + d, hm₁.trans h₁.host.inCap h₁.host.outCap h₁.host.outBase hm₂⟩

/-- An update of an encoder's own fields; a COPY encoder's leaves the table alone. -/
theorem Frame.of_encoder_update (hrole : s.role = .encode) (hht : s.mode = .copy → t.ht = s.ht)
    (h : t = { s with
      result := t.result, err := t.err, stage := t.stage, ks := t.ks, fin := t.fin, flushed := t.flushed, osb := t.osb
      scr := t.scr, k := t.k, blen := t.blen, sig := t.sig, shift := t.shift, body := t.body, ht := t.ht }) :
    Frame s t where
  host := by unfold KeepsHost; conv_lhs => rw [h]
             rw [h]
  encoder _ := ⟨by rw [h]; simp [KeepsDecoderFields], hht⟩
  decoder hdec := by simp [hrole] at hdec
  moved := ⟨0, 0, by rw [h]; constructor <;> simp [State.readByte]⟩

/-- An update of a decoder's own fields. -/
theorem Frame.of_decoder_update (hrole : s.role = .decode)
    (h : t = { s with
      result := t.result, err := t.err, mode := t.mode, btype := t.btype, stage := t.stage, ks := t.ks, fin := t.fin
      osb := t.osb, blen := t.blen, sig := t.sig, bfinal := t.bfinal, n := t.n, t := t.t, cidx := t.cidx
      crem := t.crem, dcnt := t.dcnt, acc := t.acc, footStart := t.footStart, ht := t.ht }) : Frame s t where
  host := by unfold KeepsHost; conv_lhs => rw [h]
             rw [h]
  encoder henc := by simp [hrole] at henc
  decoder _ := by rw [h]; simp [KeepsEncoderFields]
  moved := ⟨0, 0, by rw [h]; constructor <;> simp [State.readByte]⟩

/-- An answer's RESULT and ERR are in both roles' reach. -/
theorem Frame.of_answer (result : Result) (err : ErrCode) (s : State) :
    Frame s { s with result := result, err := err } where
  host := rfl
  encoder _ := ⟨⟨rfl, rfl, rfl, rfl, rfl, rfl, rfl, rfl, rfl, rfl⟩, fun _ => rfl⟩
  decoder _ := ⟨rfl, rfl, rfl⟩
  moved := ⟨0, 0, by constructor <;> simp [State.readByte]⟩

/-! ## Reads and Drain -/

/-- A read advances IN_POS and TOTAL_READ and writes the bridge. -/
theorem Frame.of_advance {a : Nat} (ha : a ≤ s.inAvail)
    (h : t = { s with
      inPos := s.inPos + BitVec.ofNat 32 a, totalRead := s.totalRead + BitVec.ofNat 64 a, scr := t.scr, k := t.k }) :
    Frame s t where
  host := by unfold KeepsHost; conv_lhs => rw [h]
             rw [h]
  encoder _ := ⟨by rw [h]; simp [KeepsDecoderFields], fun _ => by rw [h]⟩
  decoder _ := by rw [h]; simp [KeepsEncoderFields]
  moved := ⟨a, 0, by rw [h]; constructor <;> simp [State.readByte, ha]⟩

theorem readUnit_eq_ok {n : Nat} {bytes : List Byte} (h : readUnit n s = .ok bytes t) :
    n ≤ s.k + s.inAvail ∧ bytes = s.scr.bytes.take s.k ++ (takeBytes (n - s.k) s).1 ∧
      t = { s with
        k := 0, inPos := s.inPos + BitVec.ofNat 32 (n - s.k)
        totalRead := s.totalRead + BitVec.ofNat 64 (n - s.k) } := by
  by_cases hn : n ≤ s.k + s.inAvail
  · rw [readUnit_ok hn, ReadResult.ok.injEq] at h
    exact ⟨hn, h.1.symm, h.2.symm⟩
  · rw [readUnit_insufficient (Nat.lt_of_not_le hn)] at h
    cases h

theorem readUnit_eq_insufficient {n : Nat} (h : readUnit n s = .insufficient t) :
    s.k + s.inAvail < n ∧ t = stageBytes s.inAvail s ∧
      t = { s with
        k := s.k + s.inAvail, inPos := s.inPos + BitVec.ofNat 32 s.inAvail
        totalRead := s.totalRead + BitVec.ofNat 64 s.inAvail, scr := t.scr } := by
  by_cases hn : n ≤ s.k + s.inAvail
  · rw [readUnit_ok hn] at h
    cases h
  · rw [readUnit_insufficient (Nat.lt_of_not_le hn), ReadResult.insufficient.injEq] at h
    obtain ⟨scr, hstate⟩ := stageBytes_state s.inAvail s
    refine ⟨Nat.lt_of_not_le hn, h.symm, ?_⟩
    rw [← h, hstate]

theorem Frame.of_read {n : Nat} {bytes : List Byte} (h : readUnit n s = .ok bytes t) : Frame s t := by
  obtain ⟨hn, -, rfl⟩ := readUnit_eq_ok h
  exact .of_advance (a := n - s.k) (by omega) rfl

theorem Frame.of_shortRead {n : Nat} (h : readUnit n s = .insufficient t) : Frame s t := by
  obtain ⟨-, -, ht⟩ := readUnit_eq_insufficient h
  refine .of_advance le_rfl ?_
  conv_lhs => rw [ht]
  rw [ht]

theorem inAvail_of_shortRead {n : Nat} (h : readUnit n s = .insufficient t) : t.inAvail = 0 := by
  obtain ⟨-, -, ht⟩ := readUnit_eq_insufficient h
  rw [inAvail_of_inPos (s := s) (count := s.inAvail) (by rw [ht]) (by rw [ht]) le_rfl, Nat.sub_self]

theorem Frame.of_drain (s : State) : Frame s (drain s) := by
  obtain ⟨mem, hstate, -, hother⟩ := drain_state s
  rw [hstate]
  exact {
    host := rfl
    encoder := fun _ => ⟨⟨rfl, rfl, rfl, rfl, rfl, rfl, rfl, rfl, rfl, rfl⟩, fun _ => rfl⟩
    decoder := fun _ => ⟨rfl, rfl, rfl⟩
    moved := ⟨0, min s.osb.length s.outAvail, {
      inRoom := Nat.zero_le _
      outRoom := Nat.min_le_right ..
      inPos := (BitVec.add_zero _).symm
      totalRead := (BitVec.add_zero _).symm
      outPos := rfl
      totalWritten := rfl
      memory := hother }⟩ }

/-! ## The micro-step and the loop -/

theorem microStep_encode_frame (hrole : s.role = .encode) :
    (microStep flush s).Meets (Frame s) (Frame s) (Frame s) := by
  refine microStep_encode_meets hrole ?header ?prepare ?full ?next ?chunk ?copy ?footer ?unruled
  case header => exact fun _ => .of_encoder_update hrole (fun _ => rfl) rfl
  case prepare => exact fun _ _ => .of_encoder_update hrole (fun _ => rfl) rfl
  case full => exact fun _ _ _ _ => .of_encoder_update hrole (fun _ => rfl) rfl
  case next => exact fun _ _ _ _ => .of_encoder_update hrole (fun _ => rfl) rfl
  case footer => exact fun _ => .of_encoder_update hrole (fun _ => rfl) rfl
  case unruled => exact fun _ => .of_answer ..
  case chunk =>
    intro _ hmode _
    refine encReadChunk_meets (fun bytes t hread => ?_) fun t hread => ?_
    · have hframe := Frame.of_read hread
      have hrole' := hframe.host.role.trans hrole
      have hmode' : t.mode = .chameleon := (hframe.encoder hrole).1.1.trans hmode
      obtain ⟨sig, body, ht, hchunk, -, -⟩ := encodeChunk_state bytes t
      refine hframe.trans (.of_encoder_update hrole' (fun hcopy => ?_) ?_)
      · rw [hmode'] at hcopy; cases hcopy
      · rw [hchunk]
    · have hframe := Frame.of_shortRead hread
      have hrole' := hframe.host.role.trans hrole
      exact ⟨fun _ => hframe, fun _ => hframe.trans (.of_encoder_update hrole' (fun _ => rfl) rfl)⟩
  case copy =>
    intro _ _ _
    refine encCopyBytes_meets (fun _ => ?_) (fun bytes t _ hread => ?_) fun t _ hread => ?_
    · exact .of_encoder_update hrole (fun _ => rfl) rfl
    · have hframe := Frame.of_read hread
      exact hframe.trans (.of_encoder_update (hframe.host.role.trans hrole) (fun _ => rfl) rfl)
    · have hframe := Frame.of_shortRead hread
      exact ⟨fun _ => hframe, fun _ =>
        hframe.trans (.of_encoder_update (hframe.host.role.trans hrole) (fun _ => rfl) rfl)⟩

/-- A token's run is a decoder's update. -/
theorem afterToken_exec_frame {i : Instr} (hrole : s.role = .decode) (hi : i.isCommand = false) :
    (afterToken (exec i s)).Meets (Frame s) (Frame s) (Frame s) := by
  obtain ⟨t, hexec, -, ht⟩ := exec_token_frame i s hi
  rw [hexec, afterToken_next_meets, ite_self]
  exact .of_decoder_update hrole ht

theorem microStep_decode_frame (hrole : s.role = .decode) :
    (microStep flush s).Meets (Frame s) (Frame s) (Frame s) := by
  have hshort : ∀ (n : Nat) (code : ErrCode) (t : State), readUnit n s = .insufficient t →
      (flush = false → Frame s t) ∧ (flush = true → Frame s (raiseError code t)) := fun n code t hread =>
    ⟨fun _ => .of_shortRead hread, fun _ => (Frame.of_shortRead hread).trans (.of_answer ..)⟩
  refine microStep_decode_meets hrole ?token ?lastChunk ?noTail ?copy ?unruled
  case lastChunk => exact fun _ _ _ _ => .of_decoder_update hrole rfl
  case noTail => exact fun _ _ _ _ => .of_decoder_update hrole rfl
  case unruled => exact fun _ => .of_answer ..
  case token =>
    intro ctx hpoint
    have hctx := hpoint.ne_command
    refine fetchToken_meets hctx (fun unit t hread _ _ => ?_) (fun unit t hread _ => ?_) fun t hread => ?_
    · have hframe := Frame.of_read hread
      exact hframe.trans (.of_decoder_update (hframe.host.role.trans hrole) rfl)
    · have hframe := Frame.of_read hread
      exact meets_imp (afterToken_exec_frame (hframe.host.role.trans hrole)
        (decodeExact_stream_isToken ctx (ctx.tokenBytes t unit) hctx)) hframe.trans hframe.trans hframe.trans
    · exact hshort _ _ t hread
  case copy =>
    intro _ _ _
    refine decCopyBytes_meets (fun _ => ?_) (fun bytes t _ hread => ?_) fun t _ hread => ?_
    · exact .of_decoder_update hrole rfl
    · have hframe := Frame.of_read hread
      exact hframe.trans (.of_decoder_update (hframe.host.role.trans hrole) rfl)
    · exact hshort _ _ t hread

theorem microStep_frame (flush : Bool) (s : State) : (microStep flush s).Meets (Frame s) (Frame s) (Frame s) := by
  cases hrole : s.role with
  | encode => exact microStep_encode_frame hrole
  | decode => exact microStep_decode_frame hrole

theorem processLoop_frame {turns : Nat} (h : processLoop turns flush s = .next t) : Frame s t := by
  refine processLoop_induct (I := Frame s) (A := Frame s) (fun u hu => hu.trans (.of_drain u))
    (fun u hu _ _ => hu.trans (.of_answer ..)) (fun u hu _ _ => hu.trans (.of_answer ..)) (fun u hu _ _ => ?_)
    turns s t (.of_answer s.result s.err s) h
  exact meets_imp (microStep_frame flush u) hu.trans (fun h => (hu.trans h).trans (.of_answer ..)) hu.trans

/-! ## PROCESS -/

/-- How a PROCESS answers: at its entry, with RESULT and ERR; or from its loop, having moved backed bytes only. -/
theorem exec_process_cases (h : exec (.process flush) s = .next t) :
    (∃ err, t = { s with result := .error, err := err }) ∨
    (entersLoop s ∧ processLoop (processTurns s) flush s = .next t ∧ s.movedBytesBacked t = true) := by
  cases hviews : s.viewsOverlap with
  | true => cases (exec_process_of_overlap flush hviews).symm.trans h
  | false =>
    by_cases hactive : s.active = false
    · cases (exec_of_noSession (sessionCommand_process hviews) hactive).symm.trans h
      exact .inl ⟨.invalidStateTransition, rfl⟩
    have hactive : s.active = true := by simpa using hactive
    by_cases herr : s.err = .none
    · by_cases hstage : s.stage = .finished
      · cases (exec_process_of_finished flush hviews hactive herr hstage).symm.trans h
        exact .inl ⟨.invalidStateTransition, rfl⟩
      · have henters : entersLoop s := ⟨hactive, herr, hstage, hviews⟩
        rw [exec_process_of_entersLoop flush henters, onBackedMemory_eq_next] at h
        exact .inr ⟨henters, h⟩
    · cases (exec_of_latchedError (sessionCommand_process hviews) hactive herr).symm.trans h
      exact .inl ⟨s.err, rfl⟩

theorem exec_process_frame (h : exec (.process flush) s = .next t) : Frame s t := by
  obtain ⟨err, rfl⟩ | ⟨-, hloop, -⟩ := exec_process_cases h
  · exact .of_answer ..
  · exact processLoop_frame hloop

/-- The bytes a loop moved are the `a` and `b` of its frame. -/
theorem Moved.movedBytesBacked_eq {a b : Nat} (h : Moved s t a b) :
    s.movedBytesBacked t = (s.viewBacked s.inBase s.inPos a && s.viewBacked s.outBase s.outPos b) := by
  have ha : (t.inPos - s.inPos).toNat = a := by
    have := avail_lt s.inPos s.inCap
    have := h.inRoom
    simp only [State.inAvail] at this
    rw [h.inPos, BitVec.add_comm, BitVec.add_sub_cancel, BitVec.toNat_ofNat, Nat.mod_eq_of_lt (by omega)]
  have hb : (t.outPos - s.outPos).toNat = b := by
    have := avail_lt s.outPos s.outCap
    have := h.outRoom
    simp only [State.outAvail] at this
    rw [h.outPos, BitVec.add_comm, BitVec.add_sub_cancel, BitVec.toNat_ofNat, Nat.mod_eq_of_lt (by omega)]
  rw [State.movedBytesBacked, ha, hb]

/-- Settles O29: the frame of the loop, whose bytes its answer's check found backed; an answer at the entry moved none. -/
theorem processMovesOnlyItsViews : Obligations.ProcessMovesOnlyItsViews := by
  unfold Obligations.ProcessMovesOnlyItsViews
  intro flush s t hexec
  have hframe := exec_process_frame hexec
  obtain ⟨a, b, hmoved, hbackedIn, hbackedOut⟩ : ∃ a b, Moved s t a b ∧
      s.viewBacked s.inBase s.inPos a = true ∧ s.viewBacked s.outBase s.outPos b = true := by
    obtain ⟨err, rfl⟩ | ⟨-, hloop, hbacked⟩ := exec_process_cases hexec
    · exact ⟨0, 0, by constructor <;> simp [State.readByte], rfl, rfl⟩
    · obtain ⟨a, b, hmoved⟩ := hframe.moved
      rw [hmoved.movedBytesBacked_eq, Bool.and_eq_true] at hbacked
      exact ⟨a, b, hmoved, hbacked⟩
  refine ⟨a, b, hmoved.inRoom, hmoved.outRoom, hmoved.inPos, hmoved.totalRead, hmoved.outPos, hmoved.totalWritten,
    (viewBacked_iff ..).1 hbackedIn, (viewBacked_iff ..).1 hbackedOut, hmoved.memory, ?_⟩
  rw [hframe.host]
  exact ⟨rfl, rfl, rfl, rfl, rfl, rfl, rfl, rfl, rfl, rfl⟩

/-- Settles O30: the frame's two role clauses. -/
theorem processLeavesTheOtherRoleAlone : Obligations.ProcessLeavesTheOtherRoleAlone := by
  unfold Obligations.ProcessLeavesTheOtherRoleAlone
  intro flush s t hexec
  have hframe := exec_process_frame hexec
  exact ⟨fun hrole => (hframe.encoder hrole).1, hframe.decoder, fun hrole => (hframe.encoder hrole).2⟩

end Sys2Proof.Proofs.ProcessFrame
end

section
/-!
PROOFS. How a PROCESS ends (R38, R357, R402 to R405, R411, R437): what each result says, that the stage never goes back,
and that the loop always answers and within its bound.
-/

namespace Sys2Proof.Proofs.ProcessEnd

open Sys2Proof.Machine Sys2Proof.Statements Sys2Proof.Proofs.HostCommands Sys2Proof.Proofs.ErrorLatch
open Sys2Proof.Proofs.Views Sys2Proof.Proofs.MicroStep Sys2Proof.Proofs.Tokens Sys2Proof.Proofs.ProcessFrame

variable {s t u : State} {flush : Bool}

/-! ## Errors and stages in a micro-step -/

/-- The stage does not go back, and only FINISH leads to FINISHED. -/
def StageUp (s t : State) : Prop := stageNumber s.stage ≤ stageNumber t.stage ∧ t.stage ≠ .finished

theorem StageUp.trans (h₁ : StageUp s t) (h₂ : StageUp t u) : StageUp s u := ⟨h₁.1.trans h₂.1, h₂.2⟩

theorem StageUp.of_stage_eq (hstage : s.stage ≠ .finished) (h : t.stage = s.stage) : StageUp s t := by
  rw [StageUp, h]
  exact ⟨le_rfl, hstage⟩

/-- How a micro-step leaves ERR, FIN and the OSB where it stalls or raises. -/
structure Paused (s t : State) : Prop where
  stage : StageUp s t
  fin : t.fin = s.fin
  osb : t.osb = s.osb

/-- What a micro-step of a healthy, unfinished session can leave behind, for each of its ends. -/
def Progresses (s : State) (o : MicroOutcome) : Prop :=
  o.Meets (fun t => t.err = .none ∧ StageUp s t) (fun t => t.err = .none ∧ t.inAvail = 0 ∧ Paused s t)
    (fun t => t.err ≠ .none ∧ t.result = .error ∧ Paused s t)

theorem Paused.of_shortRead {n : Nat} (hstage : s.stage ≠ .finished) (h : readUnit n s = .insufficient t) :
    t.err = s.err ∧ t.inAvail = 0 ∧ Paused s t := by
  have havail := inAvail_of_shortRead h
  obtain ⟨-, -, ht⟩ := readUnit_eq_insufficient h
  exact ⟨by rw [ht], havail, .of_stage_eq hstage (by rw [ht]), by rw [ht], by rw [ht]⟩

theorem microStep_encode_progresses (hrole : s.role = .encode) (herr : s.err = .none) (hstage : s.stage ≠ .finished) :
    Progresses s (microStep flush s) := by
  have hblocks : s.stage = .blocks → ∀ {t : State}, t.err = .none → t.stage = .blocks ∨ t.stage = .footer →
      t.err = .none ∧ StageUp s t := by
    intro h t hterr ht
    rw [StageUp, h]
    obtain ht | ht := ht <;> simp [hterr, ht, stageNumber]
  refine microStep_encode_meets hrole ?header ?prepare ?full ?next ?chunk ?copy ?footer ?unruled
  case header => intro h; simp [herr, StageUp, h, stageNumber]
  case footer => intro h; simp [herr, StageUp, h, stageNumber]
  case prepare => exact fun h _ => hblocks h herr (.inl h)
  case full => exact fun h _ _ _ => hblocks h herr (.inl h)
  case next => exact fun h _ _ _ => hblocks h herr (.inl h)
  case unruled => exact fun _ => ⟨by simp, rfl, .of_stage_eq hstage rfl, rfl, rfl⟩
  case chunk =>
    intro h _ _
    refine encReadChunk_meets (fun bytes t hread => ?_) fun t hread => ?_
    · obtain ⟨-, -, rfl⟩ := readUnit_eq_ok hread
      obtain ⟨sig, body, ht, hchunk, -, -⟩ := encodeChunk_state bytes _
      rw [hchunk]
      exact hblocks h herr (.inl h)
    · obtain ⟨hterr, havail, hpaused⟩ := Paused.of_shortRead hstage hread
      exact ⟨fun _ => ⟨hterr.trans herr, havail, hpaused⟩, fun _ => hblocks h (hterr.trans herr) (.inr rfl)⟩
  case copy =>
    intro h _ _
    refine encCopyBytes_meets (fun _ => hblocks h herr (.inl h)) (fun bytes t _ hread => ?_) fun t _ hread => ?_
    · obtain ⟨-, -, rfl⟩ := readUnit_eq_ok hread
      exact hblocks h herr (.inl h)
    · obtain ⟨hterr, havail, hpaused⟩ := Paused.of_shortRead hstage hread
      exact ⟨fun _ => ⟨hterr.trans herr, havail, hpaused⟩, fun _ => hblocks h (hterr.trans herr) (.inr rfl)⟩

theorem microStep_decode_progresses (hrole : s.role = .decode) (herr : s.err = .none) (hstage : s.stage ≠ .finished) :
    Progresses s (microStep flush s) := by
  have hkept : ∀ {t : State}, t.err = .none → t.stage = s.stage → t.err = .none ∧ StageUp s t :=
    fun hterr ht => ⟨hterr, .of_stage_eq hstage ht⟩
  have hshort : ∀ (n : Nat) (code : ErrCode) (t : State), code ≠ .none → readUnit n s = .insufficient t →
      (flush = false → t.err = .none ∧ t.inAvail = 0 ∧ Paused s t) ∧
      (flush = true → (raiseError code t).err ≠ .none ∧ (raiseError code t).result = .error ∧
        Paused s (raiseError code t)) := by
    intro n code t hcode hread
    obtain ⟨hterr, havail, hpaused⟩ := Paused.of_shortRead hstage hread
    exact ⟨fun _ => ⟨hterr.trans herr, havail, hpaused⟩, fun _ => ⟨hcode, rfl, hpaused.stage, hpaused.fin, hpaused.osb⟩⟩
  refine microStep_decode_meets hrole ?token ?lastChunk ?noTail ?copy ?unruled
  case lastChunk => exact fun _ _ _ _ => hkept herr rfl
  case noTail => exact fun _ _ _ _ => hkept herr rfl
  case unruled => exact fun _ => ⟨by simp, rfl, .of_stage_eq hstage rfl, rfl, rfl⟩
  case token =>
    intro ctx hpoint
    refine fetchToken_meets hpoint.ne_command (fun unit t hread _ _ => ?_) (fun unit t hread _ => ?_)
      fun t hread => hshort _ _ t (by unfold shortReadCode; split <;> simp) hread
    · obtain ⟨-, -, rfl⟩ := readUnit_eq_ok hread
      exact hkept herr rfl
    · obtain ⟨-, -, rfl⟩ := readUnit_eq_ok hread
      refine tokenRun_meets hpoint herr ?_ ?_ ?_ ?_ ?_ ?_ ?_ ?_
      · rintro code (rfl | rfl) <;>
          exact ⟨⟨by simp, rfl, .of_stage_eq hstage rfl, rfl, rfl⟩, ⟨by simp, rfl, .of_stage_eq hstage rfl, rfl, rfl⟩⟩
      · intro h m bt
        simp [herr, StageUp, h, stageNumber]
      · exact fun _ _ len final _ => ⟨fun _ => hkept herr rfl, fun _ => hkept herr rfl⟩
      · exact fun _ _ _ flags => hkept herr rfl
      · exact fun _ _ _ _ => ⟨fun h => hkept herr rfl, fun c => hkept herr rfl⟩
      · exact fun _ _ _ _ => hkept herr rfl
      · exact fun h _ => ⟨by simp [herr, StageUp, h, stageNumber], hkept herr rfl⟩
      · exact fun _ => hkept herr rfl
  case copy =>
    intro _ _ _
    refine decCopyBytes_meets (fun _ => hkept herr rfl) (fun bytes t _ hread => ?_)
      fun t _ hread => hshort _ _ t (by simp) hread
    obtain ⟨-, -, rfl⟩ := readUnit_eq_ok hread
    exact hkept herr rfl

theorem microStep_progresses (flush : Bool) (herr : s.err = .none) (hstage : s.stage ≠ .finished) :
    Progresses s (microStep flush s) := by
  cases hrole : s.role with
  | encode => exact microStep_encode_progresses hrole herr hstage
  | decode => exact microStep_decode_progresses hrole herr hstage

/-! ## What an answer of the loop says (R38, R437) -/

/-- The four results, each with what it says of FIN, the OSB, the views and ERR. -/
inductive LoopAnswer (t : State) : Prop where
  | ready (result : t.result = .ready) (fin : t.fin = true) (osb : t.osb = []) (err : t.err = .none)
  | stallIn (result : t.result = .stallIn) (fin : t.fin = false) (osb : t.osb = []) (view : t.inAvail = 0)
    (err : t.err = .none)
  | stallOut (result : t.result = .stallOut) (osb : t.osb ≠ []) (view : t.outAvail = 0) (err : t.err = .none)
  | error (result : t.result = .error) (fin : t.fin = false) (osb : t.osb = []) (err : t.err ≠ .none)

theorem drain_err_stage (s : State) : (drain s).err = s.err ∧ (drain s).stage = s.stage := by
  obtain ⟨mem, hstate, -, -⟩ := drain_state s
  rw [hstate]
  exact ⟨rfl, rfl⟩

theorem processLoop_answer {turns : Nat} (herr : s.err = .none) (hstage : s.stage ≠ .finished)
    (h : processLoop turns flush s = .next t) : LoopAnswer t ∧ StageUp s t := by
  refine processLoop_induct (I := fun u => u.err = .none ∧ StageUp s u) (A := fun u => LoopAnswer u ∧ StageUp s u)
    ?drain ?full ?done ?step turns s t ⟨herr, .of_stage_eq hstage rfl⟩ h
  case drain =>
    rintro u ⟨huerr, hup⟩
    obtain ⟨hderr, hdstage⟩ := drain_err_stage u
    exact ⟨hderr.trans huerr, by rwa [StageUp, hdstage]⟩
  case full => exact fun u ⟨huerr, hup⟩ hosb hview => ⟨.stallOut rfl hosb hview huerr, hup⟩
  case done => exact fun u ⟨huerr, hup⟩ hosb hfin => ⟨.ready rfl hfin hosb huerr, hup⟩
  case step =>
    rintro u ⟨huerr, hup⟩ hosb hfin
    refine meets_imp (microStep_progresses flush huerr hup.2) ?_ ?_ ?_
    · exact fun ⟨hverr, hv⟩ => ⟨hverr, hup.trans hv⟩
    · exact fun ⟨hverr, hview, hv⟩ =>
        ⟨.stallIn rfl (hv.fin.trans hfin) (hv.osb.trans hosb) hview hverr, hup.trans hv.stage⟩
    · exact fun ⟨hverr, hresult, hv⟩ =>
        ⟨.error hresult (hv.fin.trans hfin) (hv.osb.trans hosb) hverr, hup.trans hv.stage⟩

/-- Settles O28: PROCESS answers what its loop does, and the loop's answers are of four kinds. -/
theorem processResultSaysWhatIsPending : Obligations.ProcessResultSaysWhatIsPending := by
  unfold Obligations.ProcessResultSaysWhatIsPending
  intro flush s t henters hexec
  rw [exec_process_of_entersLoop flush henters, onBackedMemory_eq_next] at hexec
  obtain ⟨-, herr, hstage, -⟩ := henters
  cases (processLoop_answer herr hstage hexec.1).1 with
  | ready result fin osb err => simp [result, fin, osb, err]
  | stallIn result fin osb view err => simp [result, fin, osb, view, err]
  | stallOut result osb view err => simp [result, osb, view, err]
  | error result fin osb err => simp [result, fin, osb, err]

/-- Settles O32: PROCESS by its loop, FINISH and the reserved opcode by their answers. -/
theorem stageNeverGoesBack : Obligations.StageNeverGoesBack := by
  unfold Obligations.StageNeverGoesBack
  rintro i s t (⟨flush, rfl⟩ | rfl | rfl) hexec
  · obtain ⟨err, rfl⟩ | ⟨⟨-, herr, hstage, -⟩, hloop, -⟩ := exec_process_cases hexec
    · exact le_rfl
    · exact (processLoop_answer herr hstage hloop).2.1
  · simp only [exec, execFinish] at hexec
    repeat' split at hexec
    all_goals cases hexec
    · exact le_rfl
    · exact le_rfl
    · next h => simp [h.1, stageNumber]
    · exact le_rfl
  · simp only [exec, execReserved] at hexec
    repeat' split at hexec
    all_goals cases hexec; exact le_rfl

/-! ## The loop always answers (R405) -/

/-- How many micro-steps the resumption point alone can still take without a byte of input. -/
def pointBound (s : State) : Nat :=
  match s.role, s.stage, s.ks with
  | .encode, .header, _ => 5
  | .encode, .blocks, .prepare => 4
  | .encode, .blocks, .checkSig => if s.shift = s.groupWidth then 5 else 3
  | .encode, .blocks, .readChunk => 2
  | .encode, .blocks, .copyBytes => if s.blen = s.blockBytes then 5 else 2
  | .encode, .footer, _ => if s.fin then 0 else 1
  | .decode, .blocks, .readChunk => 2
  | .decode, .blocks, .readTail => 1
  | .decode, .blocks, .copyBytes => 1
  | _, _, _ => 0

/-- A bound on the micro-steps still to come: 4 for each byte of input, 4 for a bridge in use, and the point's own. -/
def turnBound (s : State) : Nat := 4 * s.inAvail + (if s.k = 0 then 0 else 4) + pointBound s

theorem pointBound_le (s : State) : pointBound s ≤ 5 := by
  unfold pointBound
  split <;> (try split) <;> omega

theorem pointBound_le_of_decode (hrole : s.role = .decode) : pointBound s ≤ 2 := by
  unfold pointBound
  split <;> simp_all

/-- A read lowers the bound by 4, whatever it makes of the resumption point. -/
theorem turnBound_of_read {n : Nat} {bytes : List Byte} (hn : 0 < n) (h : readUnit n s = .ok bytes t)
    (hpos : u.inPos = t.inPos) (hcap : u.inCap = t.inCap) (hk : u.k = t.k) (hpoint : pointBound u < 4 + pointBound s) :
    turnBound u < turnBound s := by
  obtain ⟨henough, -, rfl⟩ := readUnit_eq_ok h
  have havail : u.inAvail = s.inAvail - (n - s.k) := inAvail_of_inPos hcap hpos (by omega)
  rw [turnBound, turnBound, if_pos hk, havail]
  split <;> omega

/-- Without a read only the resumption point's part of the bound changes. -/
theorem turnBound_of_point (hpos : u.inPos = s.inPos) (hcap : u.inCap = s.inCap) (hk : u.k = s.k)
    (hpoint : pointBound u < pointBound s) : turnBound u < turnBound s := by
  rw [turnBound, turnBound, State.inAvail, State.inAvail, hpos, hcap, hk]
  omega

theorem turnBound_drain (s : State) : turnBound (drain s) = turnBound s := by
  obtain ⟨mem, hstate, -, -⟩ := drain_state s
  rw [hstate]
  rfl

/-- A closed final block has read everything and leaves only the footer. -/
theorem turnBound_of_closed (havail : u.inAvail = 0) (hk : u.k = 0) (hpoint : pointBound u < pointBound s) :
    turnBound u < turnBound s := by
  rw [turnBound, turnBound, havail, if_pos hk]
  omega

theorem pointBound_footer (hrole : s.role = .encode) (hstage : s.stage = .footer) : pointBound s ≤ 1 := by
  simp only [pointBound, hrole, hstage]
  split <;> omega

theorem pointBound_openBlock (hrole : s.role = .encode) (hstage : s.stage = .blocks) :
    pointBound (openBlock s) < 4 := by
  cases hbtype : s.btype <;> cases hmode : s.mode <;>
    simp [pointBound, openBlock, hrole, hstage, hmode, State.groupWidth, State.blockBytes, hbtype, BlockType.flagCount]

theorem microStep_encode_turnBound (hrole : s.role = .encode) (hfin : s.fin = false) :
    (microStep flush s).Meets (fun t => turnBound t < turnBound s) (fun _ => True) (fun _ => True) := by
  refine microStep_encode_meets hrole ?header ?prepare ?full ?next ?chunk ?copy ?footer ?unruled
  case header => exact fun h => turnBound_of_point rfl rfl rfl (by simp [pointBound, hrole, h])
  case footer => exact fun h => turnBound_of_point rfl rfl rfl (by simp [pointBound, hrole, h, hfin])
  case prepare =>
    intro h hks
    have hs : pointBound s = 4 := by simp [pointBound, hrole, h, hks]
    exact turnBound_of_point rfl rfl rfl (hs ▸ pointBound_openBlock hrole h)
  case full =>
    exact fun h _ hks hfull => turnBound_of_point rfl rfl rfl (by simp [closeBlock_open, pointBound, hrole, h, hks, hfull])
  case next =>
    exact fun h _ hks hfull => turnBound_of_point rfl rfl rfl (by simp [pointBound, hrole, h, hks, hfull])
  case unruled => exact fun _ => trivial
  case chunk =>
    intro h _ hks
    have hs : pointBound s = 2 := by simp [pointBound, hrole, h, hks]
    refine encReadChunk_meets (fun bytes t hread => ?_) fun t hread => ⟨fun _ => trivial, fun _ => ?_⟩
    · have hle := pointBound_le (encodeChunk bytes t)
      obtain ⟨sig, body, ht, hchunk, -, -⟩ := encodeChunk_state bytes t
      rw [hchunk] at hle ⊢
      exact turnBound_of_read (by decide) hread rfl rfl rfl (by omega)
    · have hle : pointBound (encodeTail t) ≤ 1 :=
        pointBound_footer ((Frame.of_shortRead hread).host.role.trans hrole) rfl
      have havail : t.inAvail = 0 := inAvail_of_shortRead hread
      exact turnBound_of_closed (u := encodeTail t) havail rfl (by omega)
  case copy =>
    intro h _ hks
    refine encCopyBytes_meets (fun hfull => ?_) (fun bytes t hfull hread => ?_)
      fun t hfull hread => ⟨fun _ => trivial, fun _ => ?_⟩
    · exact turnBound_of_point rfl rfl rfl (by simp [closeBlock_open, pointBound, hrole, h, hks, hfull])
    · have hs : pointBound s = 2 := by simp [pointBound, hrole, h, hks, hfull]
      have hle := pointBound_le { t with body := t.body ++ bytes, blen := t.blen + 1 }
      exact turnBound_of_read (by decide) hread rfl rfl rfl (by omega)
    · have hs : pointBound s = 2 := by simp [pointBound, hrole, h, hks, hfull]
      have hle : pointBound (closeBlock true t) ≤ 1 :=
        pointBound_footer ((Frame.of_shortRead hread).host.role.trans hrole) rfl
      have hk : t.k = 0 := by
        obtain ⟨hshort, -, ht⟩ := readUnit_eq_insufficient hread
        rw [ht]
        show s.k + s.inAvail = 0
        omega
      have havail : t.inAvail = 0 := inAvail_of_shortRead hread
      exact turnBound_of_closed (u := closeBlock true t) havail hk (by omega)

theorem unitLength_pos {ctx : Context} (h : TokenPoint s ctx) : 0 < ctx.unitLength := by
  cases h with
  | signature => rcases sigContext_cases s with h | h <;> rw [h] <;> decide
  | chunk => rcases chunkContext_cases s with h | h <;> rw [h] <;> decide
  | tail stage ks mode more => exact more
  | _ => decide

theorem microStep_decode_turnBound (hrole : s.role = .decode) :
    (microStep flush s).Meets (fun t => turnBound t < turnBound s) (fun _ => True) (fun _ => True) := by
  have hread_lt : ∀ {n : Nat} {bytes : List Byte} {t u : State}, 0 < n → readUnit n s = .ok bytes t →
      u.role = t.role → u.inPos = t.inPos → u.inCap = t.inCap → u.k = t.k → turnBound u < turnBound s := by
    intro n bytes t u hn hread hurole hpos hcap hk
    have hle := pointBound_le_of_decode (hurole.trans ((Frame.of_read hread).host.role.trans hrole))
    exact turnBound_of_read hn hread hpos hcap hk (by omega)
  refine microStep_decode_meets hrole ?token ?lastChunk ?noTail ?copy ?unruled
  case lastChunk => exact fun h _ hks _ => turnBound_of_point rfl rfl rfl (by simp [pointBound, hrole, h, hks])
  case noTail => exact fun h _ hks _ => turnBound_of_point rfl rfl rfl (by simp [pointBound, hrole, h, hks])
  case unruled => exact fun _ => trivial
  case token =>
    intro ctx hpoint
    have hn := unitLength_pos hpoint
    refine fetchToken_meets hpoint.ne_command (fun unit t hread _ _ => ?_) (fun unit t hread _ => ?_)
      fun t _ => ⟨fun _ => trivial, fun _ => trivial⟩
    · exact hread_lt hn hread rfl rfl rfl rfl
    · obtain ⟨u, hexec, -, hu⟩ := exec_token_frame _ t
        (decodeExact_stream_isToken ctx (ctx.tokenBytes t unit) hpoint.ne_command)
      rw [hexec, afterToken_next_meets]
      split
      · exact hread_lt hn hread (by rw [hu]) (by rw [hu]) (by rw [hu]) (by rw [hu])
      · trivial
  case copy =>
    intro h _ hks
    refine decCopyBytes_meets (fun _ => ?_) (fun bytes t _ hread => ?_)
      fun t _ _ => ⟨fun _ => trivial, fun _ => trivial⟩
    · exact turnBound_of_point rfl rfl rfl (by simp [pointBound, hrole, h, hks])
    · exact hread_lt (by decide) hread rfl rfl rfl rfl

theorem microStep_turnBound (flush : Bool) (hfin : s.fin = false) :
    (microStep flush s).Meets (fun t => turnBound t < turnBound s) (fun _ => True) (fun _ => True) := by
  cases hrole : s.role with
  | encode => exact microStep_encode_turnBound hrole hfin
  | decode => exact microStep_decode_turnBound hrole

/-- The loop answers within any number of turns above its bound. -/
theorem processLoop_answers_within {turns : Nat} (flush : Bool) (h : turnBound s < turns) :
    ∃ t, processLoop turns flush s = .next t :=
  processLoop_answers (I := fun _ => True) turnBound (fun u _ => ⟨trivial, (turnBound_drain u).le⟩)
    (fun _ _ _ hfin => meets_imp (microStep_turnBound flush hfin) (fun h => ⟨trivial, h⟩) id id) turns s trivial h

theorem processLoop_answers_always (flush : Bool) (s : State) :
    ∃ t, processLoop (processTurns s) flush s = .next t := by
  refine processLoop_answers_within flush ?_
  have := pointBound_le s
  rw [turnBound, processTurns]
  split <;> omega

theorem movedBytesBacked_of_viewsBacked {a b : Nat} (h : Moved s t a b) (hviews : viewsBacked s) :
    s.movedBytesBacked t = true := by
  rw [h.movedBytesBacked_eq, Bool.and_eq_true]
  exact ⟨viewBacked_mono hviews.1 h.inRoom, viewBacked_mono hviews.2 h.outRoom⟩

theorem exec_process_of_loop {turns : Nat} (henters : entersLoop s) (hle : turns ≤ processTurns s)
    (h : processLoop turns flush s = .next t) : exec (.process flush) s = onBackedMemory s (.next t) := by
  rw [exec_process_of_entersLoop flush henters, processLoop_mono h hle]

/-- Settles O26: the loop's bound is below the turns it is given, and its frame says which bytes it moved. -/
theorem processAlwaysAnswers : Obligations.ProcessAlwaysAnswers := by
  unfold Obligations.ProcessAlwaysAnswers
  intro flush s henters
  obtain ⟨t, hloop⟩ := processLoop_answers_always flush s
  have hexec := exec_process_of_loop henters le_rfl hloop
  have hnext : s.movedBytesBacked t = true → exec (.process flush) s = .next t := fun h => by
    rw [hexec, onBackedMemory, if_pos h]
  obtain ⟨-, herr, hstage, -⟩ := henters
  refine ⟨t, hloop, ?result, fun hviews => hnext ?backed, hnext, fun h => ?refused⟩
  case result =>
    cases (processLoop_answer herr hstage hloop).1 with
    | ready result => exact .inl result
    | stallIn result => exact .inr (.inl result)
    | stallOut result => exact .inr (.inr (.inl result))
    | error result => exact .inr (.inr (.inr result))
  case backed =>
    obtain ⟨a, b, hmoved⟩ := (processLoop_frame hloop).moved
    exact movedBytesBacked_of_viewsBacked hmoved hviews
  case refused => rw [hexec, onBackedMemory, if_neg (by simp [h])]

/-- R52 (1): where the invariant holds, a bridge in use means that a read of more than one byte is next. -/
theorem pointBound_le_of_bridge (hinv : s.SessionInv) (hk : s.k ≠ 0) : pointBound s ≤ 2 := by
  obtain hlt | h := hinv.bridge
  · cases hrole : s.role with
    | decode => exact pointBound_le_of_decode hrole
    | encode =>
      unfold State.nextRead at hlt
      split at hlt <;> simp_all [pointBound]
  · exact absurd h hk

/-- Settles O27: where the invariant holds the loop's bound is below 4a + 8. -/
theorem processReturnsWithinTheBound : Obligations.ProcessReturnsWithinTheBound := by
  unfold Obligations.ProcessReturnsWithinTheBound
  intro flush s hinv henters
  have hbound : turnBound s < 4 * s.inAvail + 8 := by
    rw [turnBound]
    split
    · have := pointBound_le s
      omega
    · next hk =>
      have := pointBound_le_of_bridge (hinv.session henters.1) hk
      omega
  obtain ⟨t, hloop⟩ := processLoop_answers_within flush hbound
  exact ⟨t, hloop, exec_process_of_loop henters (by rw [processTurns]; omega) hloop⟩

end Sys2Proof.Proofs.ProcessEnd
end

section
/-!
PROOFS. PROCESSes whose whole run the spec writes out: refused for overlapping views (R477), after the footer (R411), and
the first of an encoder (R350).
-/

namespace Sys2Proof.Proofs.ProcessRuns

open Sys2Proof.Machine Sys2Proof.Statements Sys2Proof.Proofs.HostCommands Sys2Proof.Proofs.ErrorLatch
open Sys2Proof.Proofs.Views Sys2Proof.Proofs.MicroStep Sys2Proof.Proofs.ProcessFrame Sys2Proof.Proofs.ProcessEnd

variable {s t u : State} {flush : Bool} {i : Instr}

/-! ## Overlapping views -/

/-- Every instruction but PROCESS answers in every state. -/
theorem exec_answers (h : ∀ flush, i ≠ .process flush) (s : State) : ∃ t, exec i s = .next t := by
  cases hcommand : i.isCommand with
  | false =>
    obtain ⟨t, hexec, -⟩ := exec_token_frame i s hcommand
    exact ⟨t, hexec⟩
  | true =>
    cases i with
    | process flush => exact absurd rfl (h flush)
    | initEnc mode btype =>
      simp only [exec, execInitEnc]
      repeat' split
      all_goals exact ⟨_, rfl⟩
    | initDec => exact ⟨_, rfl⟩
    | finish =>
      simp only [exec, execFinish]
      repeat' split
      all_goals exact ⟨_, rfl⟩
    | reserved =>
      simp only [exec, execReserved]
      repeat' split
      all_goals exact ⟨_, rfl⟩
    | _ => cases hcommand

/-- With its views apart a PROCESS answers, but for a byte it moved with no memory behind it. -/
theorem exec_process_of_apart (flush : Bool) (hviews : s.viewsOverlap = false) :
    (∃ t, exec (.process flush) s = .next t) ∨ exec (.process flush) s = .refused .noMemory := by
  by_cases hactive : s.active = false
  · exact .inl ⟨_, exec_of_noSession (sessionCommand_process hviews) hactive⟩
  have hactive : s.active = true := by simpa using hactive
  by_cases herr : s.err = .none
  · by_cases hstage : s.stage = .finished
    · exact .inl ⟨_, exec_process_of_finished flush hviews hactive herr hstage⟩
    · obtain ⟨t, hloop⟩ := processLoop_answers_always flush s
      rw [exec_process_of_loop ⟨hactive, herr, hstage, hviews⟩ le_rfl hloop, onBackedMemory]
      split
      · exact .inl ⟨t, rfl⟩
      · exact .inr rfl
  · exact .inl ⟨_, exec_of_latchedError (sessionCommand_process hviews) hactive herr⟩

/-- Settles O24: the overlap check's meaning, its refusal, and that everything else answers or has no memory. -/
theorem overlappingViewsAreRefused : Obligations.OverlappingViewsAreRefused := by
  unfold Obligations.OverlappingViewsAreRefused
  refine ⟨viewsOverlap_iff, fun flush s => exec_process_of_overlap flush, fun i s hrefused => ?_⟩
  by_cases hprocess : ∃ flush, i = .process flush
  · obtain ⟨flush, rfl⟩ := hprocess
    refine ⟨⟨flush, rfl⟩, ?_⟩
    by_contra hviews
    obtain ⟨t, hnext⟩ | hnoMemory := exec_process_of_apart flush (Bool.eq_false_of_not_eq_true hviews)
    · cases hrefused.symm.trans hnext
    · cases hrefused.symm.trans hnoMemory
  · obtain ⟨t, hnext⟩ := exec_answers (fun flush h => hprocess ⟨flush, h⟩) s
    cases hrefused.symm.trans hnext

/-! ## One turn of the loop -/

variable {turns : Nat}

theorem processLoop_of_full (hosb : (drain s).osb ≠ []) :
    processLoop (turns + 1) flush s = .next { drain s with result := .stallOut } :=
  if_pos hosb

theorem processLoop_of_drained (hosb : (drain s).osb = []) :
    processLoop (turns + 1) flush s = processLoop (turns + 1) flush (drain s) := by
  simp only [processLoop, drain_of_empty hosb]

theorem processLoop_of_done (hosb : s.osb = []) (hfin : s.fin = true) :
    processLoop (turns + 1) flush s = .next { s with result := .ready } := by
  simp [processLoop, drain_of_empty hosb, hosb, hfin]

theorem processLoop_of_cont (hosb : s.osb = []) (hfin : s.fin = false) (hstep : microStep flush s = .cont u) :
    processLoop (turns + 1) flush s = processLoop turns flush u := by
  simp [processLoop, drain_of_empty hosb, hosb, hfin, hstep]

theorem processLoop_of_stall (hosb : s.osb = []) (hfin : s.fin = false) (hstep : microStep flush s = .stallInput u) :
    processLoop (turns + 1) flush s = .next { u with result := .stallIn } := by
  simp [processLoop, drain_of_empty hosb, hosb, hfin, hstep]

/-! ## After the footer (R411) -/

theorem processLoop_of_fin (flush : Bool) (s : State) (hfin : s.fin = true) :
    processLoop (turns + 1) flush s =
      .next { drain s with result := if s.osb.length ≤ s.outAvail then .ready else .stallOut } := by
  obtain ⟨mem, hstate, -, -⟩ := drain_state s
  by_cases hroom : s.osb.length ≤ s.outAvail
  · have hosb : (drain s).osb = [] := by rw [hstate, Nat.min_eq_left hroom]; exact List.drop_length
    rw [processLoop_of_drained hosb, processLoop_of_done hosb (by rw [hstate]; exact hfin), if_pos hroom]
  · have hosb : (drain s).osb ≠ [] := by
      rw [hstate, Nat.min_eq_right (by omega)]
      simpa [List.drop_eq_nil_iff] using hroom
    rw [processLoop_of_full hosb, if_neg hroom]

theorem onBackedMemory_next_of_backed (h : s.movedBytesBacked t = true) : onBackedMemory s (.next t) = .next t :=
  if_pos h

/-- Settles O31: the loop's one turn is Drain, and with nothing staged Drain moves nothing. -/
theorem processAfterReadyOnlyDrains : Obligations.ProcessAfterReadyOnlyDrains := by
  unfold Obligations.ProcessAfterReadyOnlyDrains
  intro flush s henters hstage hfin
  have hloop : processLoop (processTurns s) flush s = _ := processLoop_of_fin flush s hfin
  have hexec := exec_process_of_loop henters le_rfl hloop
  refine ⟨fun hosb => ?empty, fun hosb => ⟨_, rfl, fun hviews => ?backed, hexec, ?state⟩⟩
  case empty =>
    have hmoved : Moved s { s with result := .ready } 0 0 := by constructor <;> simp [State.readByte]
    rw [exec_process_of_loop henters le_rfl (processLoop_of_done hosb hfin)]
    exact onBackedMemory_next_of_backed hmoved.movedBytesBacked_eq
  case backed =>
    obtain ⟨a, b, hmoved⟩ := (processLoop_frame hloop).moved
    rw [hexec, onBackedMemory_next_of_backed (movedBytesBacked_of_viewsBacked hmoved hviews)]
  case state =>
    obtain ⟨mem, hstate, -, -⟩ := drain_state s
    rw [hstate]
    refine ⟨rfl, rfl, ?_, rfl⟩
    by_cases hroom : s.osb.length ≤ s.outAvail
    · simp [Nat.min_eq_left hroom, List.drop_eq_nil_of_le hroom]
    · simp [Nat.min_eq_right (Nat.le_of_not_le hroom)]

/-! ## The first PROCESS of an encoder (R350) -/

theorem readUnit_of_nothing {n : Nat} (hn : 0 < n) (hk : s.k = 0) (havail : s.inAvail = 0) :
    readUnit n s = .insufficient s := by
  rw [readUnit_insufficient (by omega), havail]
  rfl

/-- With nothing to read, an encoder at CHECK_SIGNATURE_STATE stalls at the next chunk. -/
theorem processLoop_of_checkSig (hrole : s.role = .encode) (hstage : s.stage = .blocks) (hmode : s.mode = .chameleon)
    (hks : s.ks = .checkSig) (hroom : s.shift ≠ s.groupWidth) (hosb : s.osb = []) (hfin : s.fin = false) (hk : s.k = 0)
    (havail : s.inAvail = 0) :
    processLoop (turns + 2) false s = .next { s with ks := .readChunk, result := .stallIn } := by
  have hnext : microStep false s = .cont { s with ks := .readChunk } := by
    rw [microStep_encCheckSig hrole hstage hmode hks]
    exact if_neg hroom
  have hread : readUnit 4 { s with ks := .readChunk } = .insufficient { s with ks := .readChunk } :=
    readUnit_of_nothing (by decide) hk havail
  have hstall : microStep false { s with ks := .readChunk } = .stallInput { s with ks := .readChunk } := by
    rw [microStep_encReadChunk (s := { s with ks := .readChunk }) hrole hstage hmode rfl, encReadChunk, hread]
    rfl
  rw [processLoop_of_cont hosb hfin hnext, processLoop_of_stall (s := { s with ks := .readChunk }) hosb hfin hstall]

/-- And one at COPY_BYTES where it is. -/
theorem processLoop_of_copyBytes (hrole : s.role = .encode) (hstage : s.stage = .blocks) (hmode : s.mode = .copy)
    (hks : s.ks = .copyBytes) (hroom : s.blen ≠ s.blockBytes) (hosb : s.osb = []) (hfin : s.fin = false) (hk : s.k = 0)
    (havail : s.inAvail = 0) : processLoop (turns + 1) false s = .next { s with result := .stallIn } := by
  have hstall : microStep false s = .stallInput s := by
    rw [microStep_encCopyBytes hrole hstage hmode hks, encCopyBytes, if_neg hroom,
      readUnit_of_nothing (by decide) hk havail]
    rfl
  exact processLoop_of_stall hosb hfin hstall

theorem groupWidth_ne_zero (s : State) : 0 ≠ s.groupWidth := by
  unfold State.groupWidth
  cases s.btype <;> decide

theorem blockBytes_ne_zero (s : State) : 0 ≠ s.blockBytes := by
  unfold State.blockBytes State.groupWidth
  cases s.btype <;> decide

/-- So an encoder about to open a block opens it and stalls at its first read. -/
theorem processLoop_of_prepare (hrole : s.role = .encode) (hstage : s.stage = .blocks) (hks : s.ks = .prepare)
    (hosb : s.osb = []) (hfin : s.fin = false) (hk : s.k = 0) (havail : s.inAvail = 0) :
    processLoop (turns + 3) false s = .next { openBlock s with
      ks := if s.mode = .chameleon then .readChunk else .copyBytes, result := .stallIn } := by
  rw [processLoop_of_cont hosb hfin (microStep_encPrepare hrole hstage hks)]
  cases hmode : s.mode with
  | chameleon =>
    have hopened : (openBlock s).ks = .checkSig := by simp [openBlock, hmode]
    exact processLoop_of_checkSig (s := openBlock s) hrole hstage hmode hopened (groupWidth_ne_zero s) hosb hfin hk havail
  | copy =>
    have hopened : (openBlock s).ks = .copyBytes := by simp [openBlock, hmode]
    rw [processLoop_of_copyBytes (s := openBlock s) hrole hstage hmode hopened (blockBytes_ne_zero s) hosb hfin hk havail,
      if_neg (by simp), ← hopened]

theorem headerBytes_length (s : State) : s.headerBytes.length = 8 := rfl

/-- The encoder's state after WRITE_HEADER (R350). -/
def headerStaged (s : State) : State := { s with osb := s.headerBytes, stage := .blocks, ks := .prepare }

/-- Settles O25: the header is staged and drained; if all of it fits, the first block opens and stalls. -/
theorem firstProcessWritesTheHeader : Obligations.FirstProcessWritesTheHeader := by
  unfold Obligations.FirstProcessWritesTheHeader
  intro s henters hviews hwf hrole hstage hosb hfin hk havail
  have hturn : ∀ turns, processLoop (turns + 1) false s = processLoop turns false (headerStaged s) := fun turns =>
    processLoop_of_cont hosb hfin (microStep_writeHeader hrole hstage)
  have hanswer : ∀ {t}, processLoop (processTurns s) false s = .next t → exec (.process false) s = .next t := by
    intro t hloop
    obtain ⟨a, b, hmoved⟩ := (processLoop_frame hloop).moved
    rw [exec_process_of_loop henters le_rfl hloop,
      onBackedMemory_next_of_backed (movedBytesBacked_of_viewsBacked hmoved hviews)]
  have hwritten : ∀ i < min 8 s.outAvail,
      some ((drain (headerStaged s)).readByte (viewAddr s.outBase (s.outPos + BitVec.ofNat 32 i))) =
        s.headerBytes[i]? :=
    fun i hi => (drainBytes_written s.headerBytes (headerStaged s) hwf hi).symm
  have hturns : processTurns s = 12 + 3 + 1 := by rw [processTurns, havail]
  rw [hturns, hturn] at hanswer
  obtain ⟨mem, hstate, -, -⟩ := drain_state (headerStaged s)
  change drain (headerStaged s) = { headerStaged s with
    osb := s.headerBytes.drop (min 8 s.outAvail), outPos := s.outPos + BitVec.ofNat 32 (min 8 s.outAvail)
    totalWritten := s.totalWritten + BitVec.ofNat 64 (min 8 s.outAvail), mem := mem } at hstate
  by_cases hroom : 8 ≤ s.outAvail
  · rw [Nat.min_eq_left hroom] at hstate
    have hosb' : (drain (headerStaged s)).osb = [] := by rw [hstate]; rfl
    have hloop := processLoop_of_prepare (turns := 12) (s := drain (headerStaged s)) (by rw [hstate]; exact hrole)
      (by rw [hstate]; rfl) (by rw [hstate]; rfl) hosb' (by rw [hstate]; exact hfin) (by rw [hstate]; exact hk)
      (by rw [hstate]; exact havail)
    refine ⟨_, hanswer ((processLoop_of_drained hosb').trans hloop), ?_⟩
    rw [hstate] at hwritten ⊢
    exact ⟨rfl, rfl, rfl, hwritten, fun _ => ⟨rfl, rfl, rfl, rfl, rfl, rfl, rfl, rfl, rfl⟩, fun h => by omega⟩
  · rw [Nat.min_eq_right (by omega)] at hstate
    have hfull : (drain (headerStaged s)).osb ≠ [] := by
      rw [hstate]
      simpa [List.drop_eq_nil_iff, headerBytes_length] using hroom
    refine ⟨_, hanswer (processLoop_of_full hfull), ?_⟩
    rw [hstate] at hwritten ⊢
    exact ⟨rfl, rfl, rfl, hwritten, fun h => absurd h hroom, fun _ => ⟨rfl, rfl, rfl, rfl⟩⟩

end Sys2Proof.Proofs.ProcessRuns
end

section
/-!
PROOFS. The encoder's blocks (R230 to R238, R310 to R318, R350, R351): what a closed block, the stream header and the
footer decode to, how a chunk is encoded, and the points of both roles' COPY and CHAMELEON bodies.
-/

namespace Sys2Proof.Proofs.EncoderBlocks

open Sys2Proof.Machine Sys2Proof.Statements Sys2Proof.Proofs.StreamHeader Sys2Proof.Proofs.Codec
open Sys2Proof.Proofs.Views Sys2Proof.Proofs.MicroStep Sys2Proof.Proofs.ProcessFrame Sys2Proof.Proofs.ProcessRuns

variable {s t : State} {flush : Bool}

/-! ## What the encoder stages reads back -/

/-- R144: the open block's header word is the encoding of a block header. -/
theorem blockHeaderWord_eq (s : State) (final : Bool) (hlen : s.blen < 2 ^ 16) :
    s.blockHeaderWord final = 0#15 ++ BitVec.ofBool final ++ BitVec.ofNat 16 s.blen := by
  have happend : (0#15 ++ BitVec.ofBool final ++ BitVec.ofNat 16 s.blen).toNat =
      (0#15 ++ BitVec.ofBool final).toNat <<< 16 ||| (BitVec.ofNat 16 s.blen).toNat := BitVec.toNat_append ..
  apply BitVec.eq_of_toNat_eq
  rw [happend, State.blockHeaderWord, BitVec.toNat_or, Nat.or_comm, BitVec.toNat_ofNat, BitVec.toNat_ofNat,
    Nat.mod_eq_of_lt hlen, Nat.mod_eq_of_lt (by omega)]
  cases final <;> rfl

theorem encode_blockHeader_of_open (s : State) (final : Bool) (hlen : s.blen < 2 ^ 16) :
    encode (.blockHeader (BitVec.ofNat 16 s.blen) final 0#15) = bytesLE 4 (s.blockHeaderWord final).toNat := by
  rw [blockHeaderWord_eq s final hlen]
  rfl

/-- R316: CloseBlock stages a block header, the body and a trailer. -/
theorem closeBlock_osb (s : State) (final : Bool) (hlen : s.blen < 2 ^ 16) :
    (closeBlock final s).osb = encode (.blockHeader (BitVec.ofNat 16 s.blen) final 0#15) ++
      (s.blockBody ++ encode (.blockTrailer (BitVec.ofNat 32 s.blockBody.length))) := by
  rw [encode_blockHeader_of_open s final hlen, ← List.append_assoc]
  cases final <;> rfl

/-- Settles O50: the staged bytes are the two records' encodings around the body, and each decodes to its record. -/
theorem closedBlockReadsBack : Obligations.ClosedBlockReadsBack := by
  unfold Obligations.ClosedBlockReadsBack
  intro s final hlen _
  have hosb := closeBlock_osb s final hlen
  have hheader : (encode (.blockHeader (BitVec.ofNat 16 s.blen) final 0#15)).length = 4 := encode_length _
  have hdrop : (closeBlock final s).osb.drop 4 =
      s.blockBody ++ encode (.blockTrailer (BitVec.ofNat 32 s.blockBody.length)) := by
    rw [hosb, List.drop_left' hheader]
  refine ⟨?header, ?body, ?trailer, fun hmode => ?chameleon, fun hmode => ?copy, rfl, rfl⟩
  case header =>
    rw [hdrop, hosb]
    exact decode_encode_append (i := .blockHeader (BitVec.ofNat 16 s.blen) final 0#15) _ rfl
  case body => rw [hdrop, List.take_left]
  case trailer =>
    rw [← List.drop_drop, hdrop, List.drop_left]
    exact decode_encode (i := .blockTrailer (BitVec.ofNat 32 s.blockBody.length)) rfl
  case chameleon => simp [State.blockBody, hmode, State.sigBytes]
  case copy => simp [State.blockBody, hmode]

theorem ofByte_modeCode (m : Mode) : Mode.ofByte m.code = some m := by cases m <;> rfl
theorem ofByte_blockTypeCode (bt : BlockType) : BlockType.ofByte bt.code = some bt := by cases bt <;> rfl

/-- R143: the header bytes are the encoding of a well-formed stream header. -/
theorem decode_headerBytes (s : State) :
    decode .streamHeader s.headerBytes =
      .ok (.streamHeader Config.formatVersion s.mode.code s.btype.code 0#24, []) := by
  have hencode : s.headerBytes = encode (.streamHeader Config.formatVersion s.mode.code s.btype.code 0#24) := by
    unfold State.headerBytes
    cases s.mode <;> cases s.btype <;> decide
  rw [hencode]
  exact decode_encode (i := .streamHeader Config.formatVersion s.mode.code s.btype.code 0#24) rfl

/-- Settles O51: the header's decoding, and the decoder's run of a header that passes its checks. -/
theorem encoderHeaderIsAccepted : Obligations.EncoderHeaderIsAccepted := by
  unfold Obligations.EncoderHeaderIsAccepted
  intro flush e d hrole hstage
  exact ⟨_, _, microStep_writeHeader hrole hstage, rfl, decode_headerBytes e, rfl,
    exec_streamHeader_of_good d (ofByte_modeCode e.mode) (ofByte_blockTypeCode e.btype)⟩

/-- Settles O52: the footer bytes are the encoding of a stream footer with the two counters. -/
theorem encoderFooterCarriesTheCounters : Obligations.EncoderFooterCarriesTheCounters := by
  unfold Obligations.EncoderFooterCarriesTheCounters
  intro flush s hrole hstage
  exact ⟨s.footerBytes, microStep_writeFooter hrole hstage,
    decode_encode (i := .streamFooter s.totalRead s.totalWritten) rfl⟩

/-! ## The points of an encoder's block -/

/-- Settles O53: PREPARE_NEW_BLOCK by its mode, CHECK_SIGNATURE_STATE by whether the signature is full. -/
theorem fullSignatureClosesTheBlock : Obligations.FullSignatureClosesTheBlock := by
  unfold Obligations.FullSignatureClosesTheBlock
  intro flush s hrole hstage
  refine ⟨fun hks => ?prepare, fun hmode hks => ⟨fun hfull => ?full, fun hroom => ?room⟩⟩
  case prepare =>
    rw [microStep_encPrepare hrole hstage hks, openBlock]
    cases s.mode <;> rfl
  case full => rw [microStep_encCheckSig hrole hstage hmode hks, encCheckSig, if_pos hfull]
  case room => rw [microStep_encCheckSig hrole hstage hmode hks, encCheckSig, if_neg hroom]

/-- R238: a hit. -/
theorem encodeChunk_of_hit (bytes : List Byte) (s : State)
    (hhit : s.entry (chunkHash (chunkOf bytes)) = chunkOf bytes) :
    encodeChunk bytes s = { s with
      sig := s.sig ||| (1#64 <<< s.shift), shift := s.shift + 1
      body := s.body ++ bytesLE 2 (chunkHash (chunkOf bytes)).toNat, blen := s.blen + 4, ks := .checkSig } := by
  simp only [encodeChunk, State.isHit, hhit, decide_true, if_true]
  rfl

/-- R237: a miss. -/
theorem encodeChunk_of_miss (bytes : List Byte) (s : State)
    (hmiss : s.entry (chunkHash (chunkOf bytes)) ≠ chunkOf bytes) :
    encodeChunk bytes s = { s with
      shift := s.shift + 1, body := s.body ++ bytes, blen := s.blen + 4, ks := .checkSig
      ht := (s.setEntry (chunkHash (chunkOf bytes)) (chunkOf bytes)).ht } := by
  simp only [encodeChunk, State.isHit, hmiss, decide_false, Bool.false_eq_true, if_false, encodeMiss, pack]
  simp [State.setEntry]

/-- Settles O54: a chunk that can be read by its bucket; a short one by what the read staged. -/
theorem flushClosesTheFinalBlock : Obligations.FlushClosesTheFinalBlock := by
  unfold Obligations.FlushClosesTheFinalBlock
  intro s hrole hstage hmode hks
  have hstep : ∀ flush, microStep flush s = encReadChunk flush s :=
    fun flush => microStep_encReadChunk hrole hstage hmode hks
  refine ⟨fun flush bytes t hread => ⟨?chunk, encodeChunk_of_hit bytes t, encodeChunk_of_miss bytes t⟩, fun hshort => ?short⟩
  case chunk => rw [hstep, encReadChunk, hread]
  case short =>
    have hread := readUnit_insufficient hshort
    obtain ⟨-, -, hu⟩ := readUnit_eq_insufficient hread
    have hstaged := stageBytes_staged s.inAvail s (by omega)
    generalize hgen : stageBytes s.inAvail s = u at hread hu hstaged
    have hk : u.k = s.k + s.inAvail := by rw [hu]
    refine ⟨u, s.scr.bytes.take s.k ++ (takeBytes s.inAvail s).1, hread, ?_, rfl, ?_, inAvail_of_shortRead hread, ?_, ?_⟩
    · have := scratch_bytes_length s.scr
      simp
      omega
    · conv_lhs => rw [hu]
      rw [hu]
    · rw [hstep, encReadChunk, hread]; rfl
    · rw [hstep, encReadChunk, hread]
      simp only [if_true]
      rw [encodeTail_eq, hk, hstaged]
      congr 2
      rw [hu]

/-- With the bridge empty, a byte is read straight from the view. -/
theorem readUnit_byte (hk : s.k = 0) (havail : 0 < s.inAvail) :
    readUnit 1 s = .ok [s.readByte (viewAddr s.inBase s.inPos)]
      { s with inPos := s.inPos + 1#32, totalRead := s.totalRead + 1#64 } := by
  rw [readUnit_ok (by omega), hk]
  simp [takeBytes, inByte_eq, hk]

/-- Settles O55, by whether the block is full and the view empty. -/
theorem copyEncoderAbsorbsByBytes : Obligations.CopyEncoderAbsorbsByBytes := by
  unfold Obligations.CopyEncoderAbsorbsByBytes
  intro flush s hrole hstage hmode hks hk
  have hstep : ∀ flush, microStep flush s = encCopyBytes flush s :=
    fun flush => microStep_encCopyBytes hrole hstage hmode hks
  refine ⟨fun hfull => ?full, fun hroom havail => ?byte, fun hroom havail => ?short⟩
  case full => rw [hstep, encCopyBytes, if_pos hfull]
  case byte => rw [hstep, encCopyBytes, if_neg hroom, readUnit_byte hk havail]
  case short =>
    have hread := readUnit_of_nothing (n := 1) (by decide) hk havail
    rw [hstep, hstep, encCopyBytes, encCopyBytes, if_neg hroom, if_neg hroom, hread]
    exact ⟨rfl, rfl⟩

/-- Settles O56, by whether body bytes remain. -/
theorem copyDecoderOutputsByBytes : Obligations.CopyDecoderOutputsByBytes := by
  unfold Obligations.CopyDecoderOutputsByBytes
  intro flush s hrole hstage hmode hks hk
  have hstep : microStep flush s = decCopyBytes flush s := by
    simp only [microStep, hstage, hrole, decBlockStep, hks, hmode]
  refine ⟨fun hdone => ?done, fun hmore havail => ?byte⟩
  case done => rw [hstep, decCopyBytes, if_pos hdone]
  case byte =>
    rw [hstep, decCopyBytes, if_neg hmore, dread, readUnit_byte hk havail]
    rfl

end Sys2Proof.Proofs.EncoderBlocks
end

section
/-!
PROOFS. The hash unit and the CHAMELEON tokens (R233, R239, R241, R273): the hash in plain arithmetic, that encoder and
decoder keep one table, and that a decoder looks at no signature bit beyond its chunks.
-/

namespace Sys2Proof.Proofs.Chameleon

open Sys2Proof.Machine Sys2Proof.Statements Sys2Proof.Proofs.MicroStep Sys2Proof.Proofs.Tokens
open Sys2Proof.Proofs.EncoderBlocks

variable {s t e d : State} {flush : Bool}

/-! ## The hash (R233) -/

theorem chunkHash_toNat (c : Word) : (chunkHash c).toNat = c.toNat * 0x9D6EF916 % 2 ^ 32 / 2 ^ 16 := by
  have hproduct : (c * Config.hashMult).toNat = c.toNat * 0x9D6EF916 % 2 ^ 32 := BitVec.toNat_mul ..
  have hlt := (c * Config.hashMult).isLt
  rw [chunkHash, BitVec.extractLsb'_toNat, Nat.shiftRight_eq_div_pow, ← hproduct]
  exact Nat.mod_eq_of_lt (by simp only [Config.hashBits]; omega)

/-- Settles O48: bit 31 times an even multiplier is a multiple of 2^32. -/
theorem hashIsTheTopHalfOfTheProduct : Obligations.HashIsTheTopHalfOfTheProduct := by
  unfold Obligations.HashIsTheTopHalfOfTheProduct
  refine ⟨chunkHash_toNat, fun c => ?_⟩
  have heven : (0x80000000#32 : Word) * Config.hashMult = 0#32 := by decide
  have hproduct : (c + 0x80000000#32) * Config.hashMult = c * Config.hashMult := by
    rw [BitVec.add_mul, heven, BitVec.add_zero]
  rw [chunkHash, chunkHash, hproduct]

/-! ## Lock-step (R239) -/

theorem chunkOf_chunkBytes (c : Word) : chunkOf (chunkBytes c) = c := leWord_bytesLE c (by decide)

/-- The flag of a chunk token (R237, R238). -/
def tokenFlag (i : Instr) : Bool := i.context = .reference

theorem getLsbD_or_shifted_one {x : DWord} {place i : Nat} (hplace : place < 64) :
    (x ||| 1#64 <<< place).getLsbD i = (x.getLsbD i || decide (i = place)) := by
  rw [BitVec.getLsbD_or, BitVec.getLsbD_shiftLeft, BitVec.getLsbD_one]
  by_cases h : i = place
  · simp [h, hplace]
  · simp [h]
    omega

/-- One chunk: the encoder's step and the decoder's run of the token it chose, from equal tables. -/
theorem chunk_lockStep (c : Word) (hht : e.ht = d.ht) (hroom : e.shift < 64) :
    ∃ d', exec (tokenOfChunk c e) d = .next d' ∧
      d'.ht = (encodeChunk (chunkBytes c) e).ht ∧ d'.osb = d.osb ++ chunkBytes c ∧
      (encodeChunk (chunkBytes c) e).body = e.body ++ encode (tokenOfChunk c e) ∧
      d'.dcnt = d.dcnt + BitVec.ofNat 32 (encode (tokenOfChunk c e)).length ∧ d'.cidx = d.cidx + 1 ∧
      (encodeChunk (chunkBytes c) e).shift = e.shift + 1 ∧
      ∀ i, (encodeChunk (chunkBytes c) e).sig.getLsbD i =
        (e.sig.getLsbD i || (decide (i = e.shift) && tokenFlag (tokenOfChunk c e))) := by
  have hentry : d.entry (chunkHash c) = e.entry (chunkHash c) := by rw [State.entry, State.entry, hht]
  by_cases hhit : e.entry (chunkHash c) = c
  · have htoken : tokenOfChunk c e = .reference (chunkHash c) := if_pos (by simpa [State.isHit] using hhit)
    rw [htoken, encodeChunk_of_hit (chunkBytes c) e (by rwa [chunkOf_chunkBytes]), chunkOf_chunkBytes]
    refine ⟨_, exec_reference (chunkHash c) d, hht.symm, ?_, rfl, rfl, rfl, rfl, fun i => ?_⟩
    · rw [hentry, hhit]; rfl
    · simp [getLsbD_or_shifted_one hroom, tokenFlag, Instr.context]
  · have htoken : tokenOfChunk c e = .literal c := if_neg (by simpa [State.isHit] using hhit)
    rw [htoken, encodeChunk_of_miss (chunkBytes c) e (by rwa [chunkOf_chunkBytes]), chunkOf_chunkBytes]
    refine ⟨_, exec_literal c d, ?_, rfl, rfl, rfl, rfl, rfl, fun i => ?_⟩
    · rw [setEntry_ht, setEntry_ht, hht]
    · simp [tokenFlag, Instr.context]

/-- Any chunks: the statement of lock-step, and that flags already placed stay. -/
theorem chunks_lockStep (chunks : List Word) (hht : e.ht = d.ht) (hroom : e.shift + chunks.length ≤ 64)
    (hclear : ∀ j, e.shift ≤ j → e.sig.getLsbD j = false) :
    ∃ d', runTokens (encodeChunks chunks e).1 d = .next d' ∧ d'.ht = (encodeChunks chunks e).2.ht ∧
      d'.osb = d.osb ++ chunks.flatMap chunkBytes ∧
      (encodeChunks chunks e).2.body = e.body ++ (encodeChunks chunks e).1.flatMap encode ∧
      d'.dcnt = d.dcnt + BitVec.ofNat 32 ((encodeChunks chunks e).1.flatMap encode).length ∧
      d'.cidx = d.cidx + chunks.length ∧
      (∀ j i, (encodeChunks chunks e).1[j]? = some i →
        (encodeChunks chunks e).2.sig.getLsbD (e.shift + j) = tokenFlag i) ∧
      ∀ i < e.shift, (encodeChunks chunks e).2.sig.getLsbD i = e.sig.getLsbD i := by
  induction chunks generalizing e d with
  | nil => exact ⟨d, rfl, hht.symm, by simp, by simp [encodeChunks], by simp [encodeChunks], rfl, by simp [encodeChunks],
      fun i _ => rfl⟩
  | cons c rest ih =>
    simp only [List.length_cons] at hroom
    obtain ⟨d₁, hexec, hht₁, hosb₁, hbody₁, hdcnt₁, hcidx₁, hshift₁, hsig₁⟩ := chunk_lockStep c hht (by omega)
    have hclear₁ : ∀ j, (encodeChunk (chunkBytes c) e).shift ≤ j →
        (encodeChunk (chunkBytes c) e).sig.getLsbD j = false := by
      intro j hj
      rw [hsig₁, hclear j (by omega)]
      simp
      omega
    obtain ⟨d₂, hrun, hht₂, hosb₂, hbody₂, hdcnt₂, hcidx₂, hflags, hkept⟩ := ih hht₁.symm (by omega) hclear₁
    simp only [encodeChunks]
    refine ⟨d₂, ?_, hht₂, ?_, ?_, ?_, ?_, fun j i hi => ?_, fun i hi => ?_⟩
    · simp only [runTokens, hexec]
      exact hrun
    · rw [hosb₂, hosb₁]; simp
    · rw [hbody₂, hbody₁]; simp
    · rw [hdcnt₂, hdcnt₁, BitVec.add_assoc, ← BitVec.ofNat_add]; simp
    · rw [hcidx₂, hcidx₁, List.length_cons]; omega
    · cases j with
      | zero =>
        obtain rfl : tokenOfChunk c e = i := by simpa using hi
        rw [Nat.add_zero, hkept e.shift (by omega), hsig₁, hclear e.shift le_rfl]
        simp
      | succ j =>
        rw [← hflags j i (by simpa using hi), hshift₁, Nat.add_right_comm, Nat.add_assoc]
    · rw [hkept i (by omega), hsig₁]
      simp
      omega

/-- Settles O49, by induction on the chunks. -/
theorem encoderAndDecoderKeepLockStep : Obligations.EncoderAndDecoderKeepLockStep := by
  unfold Obligations.EncoderAndDecoderKeepLockStep
  intro chunks e d hht hroom hclear
  obtain ⟨d', hrun, hht', hosb, hbody, hdcnt, hcidx, hflags, -⟩ := chunks_lockStep chunks hht hroom hclear
  exact ⟨d', hrun, hht', hosb, hbody, hdcnt, hcidx, fun j i hi => by rw [hflags j i hi]; simp [tokenFlag]⟩

/-! ## Spare signature bits (R273) -/

theorem stageBytes_sig (count : Nat) (s : State) (sig : DWord) :
    stageBytes count { s with sig := sig } = { stageBytes count s with sig := sig } := by
  induction count generalizing s with
  | zero => rfl
  | succ count ih => exact ih (stageByte s)

/-- A micro-step's end with the signature replaced. -/
def withSig (sig : DWord) : MicroOutcome → MicroOutcome
  | .cont t => .cont { t with sig := sig }
  | .stallInput t => .stallInput { t with sig := sig }
  | .raised t => .raised { t with sig := sig }
  | .stopped f => .stopped f
  | .refused r => .refused r

/-- A read neither looks at the signature nor writes it. -/
theorem dread_sig (n : Nat) (code : ErrCode) (s : State) (sig : DWord) {use : List Byte → State → MicroOutcome}
    (huse : ∀ bytes t, use bytes { t with sig := sig } = withSig sig (use bytes t)) :
    dread n code flush { s with sig := sig } use = withSig sig (dread n code flush s use) := by
  unfold dread
  by_cases hn : n ≤ s.k + s.inAvail
  · rw [readUnit_ok hn, readUnit_ok (s := { s with sig := sig }) hn, takeBytes_bytes, takeBytes_bytes]
    exact huse _ { s with
      k := 0, inPos := s.inPos + BitVec.ofNat 32 (n - s.k), totalRead := s.totalRead + BitVec.ofNat 64 (n - s.k) }
  · have hshort : s.k + s.inAvail < n := Nat.lt_of_not_le hn
    rw [readUnit_insufficient hshort, readUnit_insufficient (s := { s with sig := sig }) hshort]
    have hstaged : stageBytes (State.inAvail { s with sig := sig }) { s with sig := sig } = _ := stageBytes_sig _ s sig
    simp only [hstaged]
    cases flush <;> rfl

/-- A chunk token's run does neither. -/
theorem afterToken_chunk_sig {ctx : Context} (hctx : ctx = .reference ∨ ctx = .literal) (bytes : List Byte) (t : State)
    (sig : DWord) :
    afterToken (exec (decodeExact ctx bytes) { t with sig := sig }) =
      withSig sig (afterToken (exec (decodeExact ctx bytes) t)) := by
  by_cases herr : t.err = .none <;> obtain rfl | rfl := hctx <;>
    simp only [decodeExact, exec_reference, exec_literal, afterToken, herr] <;> rfl

/-- Where the signatures agree on the flags of the block's chunks, READ_CHUNK does not tell them apart. -/
theorem microStep_readChunk_sig (sig : DWord) (hrole : s.role = .decode) (hstage : s.stage = .blocks)
    (hmode : s.mode = .chameleon) (hks : s.ks = .readChunk) (hle : s.cidx ≤ s.n)
    (hflags : ∀ i < s.n, sig.getLsbD i = s.sig.getLsbD i) :
    microStep flush { s with sig := sig } = withSig sig (microStep flush s) := by
  by_cases hlast : s.cidx = s.n
  · simp [microStep, hstage, hrole, decBlockStep, hks, hmode, decReadChunk, hlast, withSig]
  · have hflag : State.chunkFlag { s with sig := sig } = s.chunkFlag := hflags s.cidx (by omega)
    have hcontext : State.chunkContext { s with sig := sig } = s.chunkContext := by
      rw [State.chunkContext, hflag, State.chunkContext]
    have hungathered : s.chunkContext.isGathered = false := by
      rcases chunkContext_cases s with h | h <;> rw [h] <;> rfl
    have hpoint : TokenPoint s s.chunkContext := .chunk hstage hks hmode hlast
    have hdue : s.tokenDue = some s.chunkContext := tokenDue_iff.mpr ⟨hrole, hpoint⟩
    have hdue' : State.tokenDue { s with sig := sig } = some s.chunkContext :=
      hcontext ▸ tokenDue_iff.mpr ⟨hrole, .chunk hstage hks hmode hlast⟩
    rw [microStep_of_tokenDue hdue, microStep_of_tokenDue hdue', fetchToken_eq_dread hpoint.ne_command,
      fetchToken_eq_dread hpoint.ne_command]
    refine dread_sig _ _ s sig fun bytes t => ?_
    simp only [hungathered, Bool.false_eq_true, false_and, if_false, Context.tokenBytes]
    exact afterToken_chunk_sig (chunkContext_cases s) bytes t sig

/-- Settles O47: the micro-step with the other signature ends as the first one does, that signature in its state. -/
theorem spareSignatureBitsAreIgnored : Obligations.SpareSignatureBitsAreIgnored := by
  unfold Obligations.SpareSignatureBitsAreIgnored
  intro flush s sig hrole hstage hmode hks hle hflags
  rw [microStep_readChunk_sig sig hrole hstage hmode hks hle hflags]
  exact ⟨fun t h => by rw [h]; rfl, fun t h => by rw [h]; rfl, fun t h => by rw [h]; rfl⟩

end Sys2Proof.Proofs.Chameleon
end

section
/-!
PROOFS. The host's side of the block (R32 to R39, R103, R106, R111, R390 to R393, R446, R470): the register window, the
fields of STATUS, the host's own memory, what INIT gives, and that no step without a session shows a field R471 leaves
open.
-/

namespace Sys2Proof.Proofs.HostSide

open Sys2Proof.Machine Sys2Proof.Statements Sys2Proof.Proofs.CommandWord Sys2Proof.Proofs.StreamHeader
open Sys2Proof.Proofs.HostCommands Sys2Proof.Proofs.ErrorLatch Sys2Proof.Proofs.Codec Sys2Proof.Proofs.ProcessRuns

variable {s t : State} {rest : List HostAccess} {v : Word}

/-! ## Reset and idling -/

/-- Settles O1. -/
theorem resetHoldsSpecValues : Obligations.ResetHoldsSpecValues := by
  unfold Obligations.ResetHoldsSpecValues
  decide

/-- Settles O2. -/
theorem hardwareResetKeepsMemory : Obligations.HardwareResetKeepsMemory := by
  unfold Obligations.HardwareResetKeepsMemory
  exact fun s rest hhost => step_of_hardwareReset hhost

/-- Settles O3. -/
theorem idleBlockHoldsItsState : Obligations.IdleBlockHoldsItsState := by
  unfold Obligations.IdleBlockHoldsItsState
  intro s hhost
  simp [step, hhost]

/-! ## CMD (R33, R390) -/

/-- Every CMD word is a well-formed command. -/
theorem decodeCommand_isCommand (v : Word) :
    WellFormed (decodeCommand v) = true ∧ (decodeCommand v).isCommand = true := by
  obtain hv | hv | hv | hv := op_cases (v.extractLsb' 0 2)
  · cases hrole : v.getLsbD 3 with
    | false => rw [decodeCommand_initEnc hv hrole]; exact ⟨rfl, rfl⟩
    | true => rw [decodeCommand_initDec hv hrole]; exact ⟨rfl, rfl⟩
  · rw [decodeCommand_process hv]; exact ⟨rfl, rfl⟩
  · rw [decodeCommand_finish hv]; exact ⟨rfl, rfl⟩
  · rw [decodeCommand_reserved hv]; exact ⟨rfl, rfl⟩

/-- Settles O4: the word's bytes decode to its row, and the step runs that row. -/
theorem stepRunsDecodedCommand : Obligations.StepRunsDecodedCommand := by
  unfold Obligations.StepRunsDecodedCommand
  intro s v rest hhost
  obtain ⟨hwf, hcommand⟩ := decodeCommand_isCommand v
  have hdecode := decode_append (ctx := .command) [] rfl (bytesLE_length 4 v.toNat)
  rw [List.append_nil, decodeExact_command] at hdecode
  exact ⟨decodeCommand v, hdecode, hwf, hcommand, step_of_cmdWrite hhost⟩

/-- Settles O13. -/
theorem specWordsDecode : Obligations.SpecWordsDecode := by
  unfold Obligations.SpecWordsDecode
  decide

/-! ## The register window -/

section
variable {width offset : Nat} {addr : Word}

theorem accessCheck_of_unaligned (h : width ≠ 4 ∨ offset % 4 ≠ 0) : accessCheck width offset = some .registerAccess :=
  if_pos h

theorem accessCheck_of_outside (haligned : offset % 4 = 0) (hout : 64 ≤ offset) :
    accessCheck 4 offset = some .outsideWindow := by
  rw [accessCheck, if_neg (by simp [haligned])]
  exact if_pos hout

theorem accessCheck_of_inside (haligned : offset % 4 = 0) (hin : offset < 64) : accessCheck 4 offset = none :=
  accessCheck_eq_none.mpr ⟨rfl, haligned, hin⟩

theorem step_of_regRead_refused {r : Refusal} (hcheck : accessCheck width (addr - s.regBase).toNat = some r)
    (hhost : s.host = .regRead width addr :: rest) : step s = .refused r := by
  simp only [step, hhost, hostAccess, State.windowOffset, hcheck]

theorem step_of_regWrite_refused {r : Refusal} (hcheck : accessCheck width (addr - s.regBase).toNat = some r)
    (hhost : s.host = .regWrite width addr v :: rest) : step s = .refused r := by
  simp only [step, hhost, hostAccess, State.windowOffset, hcheck]

/-- Settles O7. -/
theorem unalignedRegisterAccessRefused : Obligations.UnalignedRegisterAccessRefused := by
  unfold Obligations.UnalignedRegisterAccessRefused
  intro s rest width addr v hbad
  have hcheck := accessCheck_of_unaligned hbad
  exact ⟨step_of_regRead_refused hcheck, step_of_regWrite_refused hcheck⟩

theorem windowOffset_of_lt (hin : offset < 64) :
    State.windowOffset { s with host := rest } (s.regBase + BitVec.ofNat 32 offset) = offset := by
  have hoffset : State.windowOffset { s with host := rest } (s.regBase + BitVec.ofNat 32 offset) =
      (BitVec.ofNat 32 offset).toNat := windowOffset_add { s with host := rest } _
  rw [hoffset, BitVec.toNat_ofNat, Nat.mod_eq_of_lt (by omega)]

/-- A read inside the window answers the register and changes nothing of the block (R112). -/
theorem step_of_regRead (haligned : offset % 4 = 0) (hin : offset < 64)
    (hhost : s.host = .regRead 4 (s.regBase + BitVec.ofNat 32 offset) :: rest) :
    step s = .next { s with host := rest, readData := s.readRegister offset } := by
  have hregister : State.readRegister { s with host := rest } offset = s.readRegister offset := by
    unfold State.readRegister
    split <;> rfl
  simp [step, hhost, hostAccess, windowOffset_of_lt hin, accessCheck_of_inside haligned hin, hregister]

/-- A write inside the window, CMD's apart, writes the register. -/
theorem step_of_regWrite (haligned : offset % 4 = 0) (hin : offset < 64) (hcmd : offset ≠ 0)
    (hhost : s.host = .regWrite 4 (s.regBase + BitVec.ofNat 32 offset) v :: rest) :
    step s = .next (State.writeRegister { s with host := rest } offset v) := by
  simp [step, hhost, hostAccess, windowOffset_of_lt hin, accessCheck_of_inside haligned hin, hcmd]

end

/-- The window's table lists aligned offsets inside it, each with what a read of it returns. -/
theorem registerTable_sound (s : State) {entry : Nat × Word} (h : entry ∈ registerTable s) :
    entry.1 % 4 = 0 ∧ entry.1 < 64 ∧ s.readRegister entry.1 = entry.2 := by
  revert entry h
  simp [registerTable, State.readRegister]

theorem pendWord_toNat (s : State) : s.pendWord.toNat = s.osb.length % 2 ^ 9 := by
  have happend : s.pendWord.toNat = (0#23).toNat <<< 9 ||| (BitVec.ofNat 9 s.osb.length).toNat := BitVec.toNat_append ..
  simpa using happend

/-- Settles O5: the table by the read's equation, PEND by its width, and the refusal outside the window. -/
theorem registerReadsReturnTheRegister : Obligations.RegisterReadsReturnTheRegister := by
  unfold Obligations.RegisterReadsReturnTheRegister
  refine ⟨fun s rest offset v hhost hmem => ?table, fun s => ⟨rfl, fun hcap => ?pend⟩, fun s rest addr v haligned hout => ?out⟩
  case table =>
    obtain ⟨haligned, hin, hvalue⟩ := registerTable_sound s hmem
    rw [step_of_regRead haligned hin hhost, hvalue]
  case pend => rw [pendWord_toNat, Nat.mod_eq_of_lt (by omega)]
  case out =>
    have hcheck := accessCheck_of_outside haligned hout
    exact ⟨step_of_regRead_refused hcheck, step_of_regWrite_refused hcheck⟩

/-- Settles O6: each clause is the write's equation at that offset. -/
theorem registerWritesStoreOrAreIgnored : Obligations.RegisterWritesStoreOrAreIgnored := by
  unfold Obligations.RegisterWritesStoreOrAreIgnored
  intro s rest v
  refine ⟨step_of_regWrite (offset := 0x08) (by decide) (by decide) (by decide),
    step_of_regWrite (offset := 0x0C) (by decide) (by decide) (by decide),
    step_of_regWrite (offset := 0x10) (by decide) (by decide) (by decide),
    step_of_regWrite (offset := 0x14) (by decide) (by decide) (by decide),
    step_of_regWrite (offset := 0x18) (by decide) (by decide) (by decide),
    step_of_regWrite (offset := 0x1C) (by decide) (by decide) (by decide), fun offset hoffset hhost => ?_⟩
  have hignored : offset % 4 = 0 ∧ offset < 64 ∧ offset ≠ 0 ∧
      State.writeRegister { s with host := rest } offset v = { s with host := rest } := by
    revert offset
    simp [State.writeRegister]
  obtain ⟨haligned, hin, hcmd, hkept⟩ := hignored
  rw [step_of_regWrite haligned hin hcmd hhost, hkept]

/-! ## The host's memory (R103, R106) -/

/-- Settles O9: the accesses by whether memory stands at the address; what a byte write does is the sparse map's law. -/
theorem hostMemoryAccessesReachMemory : Obligations.HostMemoryAccessesReachMemory := by
  unfold Obligations.HostMemoryAccessesReachMemory
  intro s rest addr v
  have hbacked : State.backed { s with host := rest } addr = s.backed addr := rfl
  refine ⟨fun h hhost => ?store, fun h hhost => ?load, fun h hhost => ?noStore, fun h hhost => ?noLoad⟩
  case store =>
    refine ⟨State.writeByte { s with host := rest } addr v, by simp [step, hhost, hostAccess, hbacked, h], rfl,
      fun hwf => ⟨readByte_writeByte_same _ addr v hwf, writeByte_memWf { s with host := rest } addr v hwf⟩,
      fun other hother => readByte_writeByte_other _ addr other v hother⟩
  case load =>
    rw [BitVec.ofNat_toNat]
    simp [step, hhost, hostAccess, hbacked, h, State.readByte]
  case noStore => simp [step, hhost, hostAccess, hbacked, h]
  case noLoad => simp [step, hhost, hostAccess, hbacked, h]

/-! ## STATUS (R34) -/

/-- STATUS bits [27:12]. -/
def statusSession (s : State) : BitVec 16 := if s.active then s.sessionFields else 0#16

theorem statusWord_session (s : State) : s.statusWord.extractLsb' 12 16 = statusSession s := by
  repeat refine extractLsb'_append_high _ (by decide) ?_
  exact BitVec.extractLsb'_append_eq_right

/-- A field of the session's bits stands 12 bits higher in STATUS. -/
theorem statusWord_of_session {inner len : Nat} {x : BitVec len} (h : inner + len ≤ 16) (hactive : s.active = true)
    (hx : s.sessionFields.extractLsb' inner len = x) : s.statusWord.extractLsb' (12 + inner) len = x := by
  rw [← extractLsb'_of_wider_field s.statusWord h, statusWord_session, statusSession, if_pos hactive, hx]

theorem resultCode_eq (r : Result) : r.code = BitVec.ofNat 3 (resultNumber r) := by cases r <;> rfl
theorem errCode_eq (e : ErrCode) : e.code = BitVec.ofNat 4 (errNumber e) := by cases e <;> rfl
theorem roleCode_eq (r : Role) : r.code = BitVec.ofBool (r = .decode) := by cases r <;> rfl
theorem stageCode_eq (g : Stage) : g.code = BitVec.ofNat 2 (stageNumber g) := by cases g <;> rfl
theorem kstageCode_eq (k : KStage) : k.code = BitVec.ofNat 4 (kstageNumber k) := by cases k <;> rfl
theorem modeCode_eq (m : Mode) : m.code.extractLsb' 0 1 = BitVec.ofBool (m = .chameleon) := by cases m <;> rfl
theorem blockTypeCode_eq (b : BlockType) : b.code.extractLsb' 0 1 = BitVec.ofBool (b = .bt1) := by cases b <;> rfl

/-- Settles O8: every field by its place in the word's layout, which is the session's inside [27:12]. -/
theorem statusFieldsStandAtTheirBits : Obligations.StatusFieldsStandAtTheirBits := by
  unfold Obligations.StatusFieldsStandAtTheirBits
  intro s
  refine ⟨?result, ?busy, ?active, ?low, ?err, ?top, fun hinactive => ?masked, fun hactive =>
    ⟨?role, ?stage, ?fin, ?flushed, ?mode, ?btype, ?gap, ?bridge, ?gaps, ?kstage⟩⟩
  case result => exact BitVec.extractLsb'_append_eq_right.trans (resultCode_eq s.result)
  case busy =>
    repeat refine extractLsb'_append_high _ (by decide) ?_
    exact BitVec.extractLsb'_append_eq_right
  case active =>
    repeat refine extractLsb'_append_high _ (by decide) ?_
    exact BitVec.extractLsb'_append_eq_right
  case low =>
    repeat refine extractLsb'_append_high _ (by decide) ?_
    exact BitVec.extractLsb'_append_eq_right
  case err =>
    repeat refine extractLsb'_append_high _ (by decide) ?_
    exact BitVec.extractLsb'_append_eq_right.trans (errCode_eq s.err)
  case top =>
    repeat refine extractLsb'_append_high _ (by decide) ?_
    exact BitVec.extractLsb'_eq_self
  case masked => rw [statusWord_session, statusSession, if_neg (by simp [hinactive])]
  case role =>
    refine statusWord_of_session (inner := 0) (by decide) hactive ?_
    exact BitVec.extractLsb'_append_eq_right.trans (roleCode_eq s.role)
  case stage =>
    refine statusWord_of_session (inner := 1) (by decide) hactive ?_
    repeat refine extractLsb'_append_high _ (by decide) ?_
    exact BitVec.extractLsb'_append_eq_right.trans (stageCode_eq s.stage)
  case fin =>
    refine statusWord_of_session (inner := 3) (by decide) hactive ?_
    repeat refine extractLsb'_append_high _ (by decide) ?_
    exact BitVec.extractLsb'_append_eq_right
  case flushed =>
    refine statusWord_of_session (inner := 4) (by decide) hactive ?_
    repeat refine extractLsb'_append_high _ (by decide) ?_
    exact BitVec.extractLsb'_append_eq_right
  case mode =>
    refine statusWord_of_session (inner := 5) (by decide) hactive ?_
    repeat refine extractLsb'_append_high _ (by decide) ?_
    exact BitVec.extractLsb'_append_eq_right.trans (modeCode_eq s.mode)
  case btype =>
    refine statusWord_of_session (inner := 6) (by decide) hactive ?_
    repeat refine extractLsb'_append_high _ (by decide) ?_
    exact BitVec.extractLsb'_append_eq_right.trans (blockTypeCode_eq s.btype)
  case gap =>
    refine statusWord_of_session (inner := 7) (by decide) hactive ?_
    repeat refine extractLsb'_append_high _ (by decide) ?_
    exact BitVec.extractLsb'_append_eq_right
  case bridge =>
    refine statusWord_of_session (inner := 8) (by decide) hactive ?_
    repeat refine extractLsb'_append_high _ (by decide) ?_
    exact BitVec.extractLsb'_append_eq_right
  case gaps =>
    refine statusWord_of_session (inner := 10) (by decide) hactive ?_
    repeat refine extractLsb'_append_high _ (by decide) ?_
    exact BitVec.extractLsb'_append_eq_right
  case kstage =>
    refine statusWord_of_session (inner := 12) (by decide) hactive ?_
    repeat refine extractLsb'_append_high _ (by decide) ?_
    exact BitVec.extractLsb'_eq_self.trans (kstageCode_eq s.ks)

/-! ## INIT (R391 to R393) -/

/-- A word whose bits OP and ROLE are given by its mask with 0xB. -/
theorem op_role_of_masked {role : Bool} (h : v &&& 0x0000000B#32 = (BitVec.ofBool role).setWidth 32 <<< 3) :
    v.extractLsb' 0 2 = 0#2 ∧ v.getLsbD 3 = role := by
  constructor
  · refine op_of_masked (op := 0#2) ?_
    have hmask : v &&& 3#32 = v &&& 0x0000000B#32 &&& 3#32 := by rw [BitVec.and_assoc]; rfl
    rw [hmask, h]
    cases role <;> rfl
  · have hbit := congrArg (fun x : Word => x.getLsbD 3) h
    simp only [BitVec.getLsbD_and] at hbit
    cases role <;> simpa using hbit

theorem exec_initEnc_of_mode_none {mode : Byte} (btype : Byte) (s : State) (hmode : Mode.ofByte mode = none) :
    exec (.initEnc mode btype) s = .next (raiseError .unsupportedMode (sessionReset s)) := by
  simp [exec, execInitEnc, hmode]

theorem exec_initEnc_of_blockType_none {mode btype : Byte} {m : Mode} (s : State) (hmode : Mode.ofByte mode = some m)
    (hbtype : BlockType.ofByte btype = none) :
    exec (.initEnc mode btype) s = .next (raiseError .malformedHeader (sessionReset s)) := by
  simp [exec, execInitEnc, hmode, hbtype]

/-- The three ways INIT.ENC ends. -/
theorem exec_initEnc_cases (mode btype : Byte) (s : State) :
    (∃ code, exec (.initEnc mode btype) s = .next (raiseError code (sessionReset s))) ∨
    ∃ m bt, exec (.initEnc mode btype) s =
      .next (sessionStart { sessionReset s with role := .encode, mode := m, btype := bt }) := by
  cases hmode : Mode.ofByte mode with
  | none => exact .inl ⟨_, exec_initEnc_of_mode_none btype s hmode⟩
  | some m =>
    cases hbtype : BlockType.ofByte btype with
    | none => exact .inl ⟨_, exec_initEnc_of_blockType_none s hmode hbtype⟩
    | some bt => exact .inr ⟨m, bt, exec_initEnc_of_good s hmode hbtype⟩

/-- Settles O14: the word by its mask, each outcome by INIT.ENC's equation for it, and the table by which of them
leaves a session. -/
theorem initEncStartsASessionOrFails : Obligations.InitEncStartsASessionOrFails := by
  unfold Obligations.InitEncStartsASessionOrFails
  refine ⟨fun v hv => ?word, fun s mode btype => ⟨fun m bt hm hbt => ?good, fun hmode => ?badMode, fun hmode hbtype => ?badType,
    fun t h hexec hactive => ?table⟩⟩
  case word =>
    obtain ⟨hop, hrole⟩ := op_role_of_masked (role := false) hv
    exact decodeCommand_initEnc hop hrole
  case good =>
    exact exec_initEnc_of_good s (mode_ofByte_eq_select mode ▸ select_of_mem hm)
      (blockType_ofByte_eq_select btype ▸ select_of_mem hbt)
  case badMode => exact exec_initEnc_of_mode_none btype s (mode_ofByte_eq_select mode ▸ select_eq_none_iff.mpr hmode)
  case badType =>
    obtain ⟨m, hm⟩ := exists_mode_of_lt hmode
    exact exec_initEnc_of_blockType_none s hm (blockType_ofByte_eq_select btype ▸ select_eq_none_iff.mpr hbtype)
  case table =>
    obtain ⟨code, hfail⟩ | ⟨m, bt, hstart⟩ := exec_initEnc_cases mode btype s
    · cases hfail.symm.trans hexec
      cases hactive
    · cases hstart.symm.trans hexec
      rfl

/-- Settles O15. -/
theorem initDecAlwaysStartsASession : Obligations.InitDecAlwaysStartsASession := by
  unfold Obligations.InitDecAlwaysStartsASession
  refine ⟨fun v hv => ?word, fun s => ⟨_, exec_initDec s, fun h => rfl, rfl⟩⟩
  obtain ⟨hop, hrole⟩ := op_role_of_masked (role := true) hv
  exact decodeCommand_initDec hop hrole

/-! ## The commands but PROCESS (R103) -/

theorem sameOutside_refl (s : State) : sameOutside s s :=
  ⟨rfl, rfl, rfl, rfl, rfl, rfl, rfl, rfl, rfl, rfl, rfl⟩

/-- Settles O20: INIT by its ways to end, FINISH and the reserved opcode by theirs. -/
theorem onlyProcessTouchesMemoryAndViews : Obligations.OnlyProcessTouchesMemoryAndViews := by
  unfold Obligations.OnlyProcessTouchesMemoryAndViews
  intro i s t hcommand hprocess hexec
  cases i with
  | initEnc mode btype =>
    obtain ⟨code, hfail⟩ | ⟨m, bt, hstart⟩ := exec_initEnc_cases mode btype s
    · cases hfail.symm.trans hexec
      exact sameOutside_refl s
    · cases hstart.symm.trans hexec
      exact sameOutside_refl s
  | initDec =>
    cases (exec_initDec s).symm.trans hexec
    exact sameOutside_refl s
  | process flush => exact absurd rfl (hprocess flush)
  | finish =>
    simp only [exec, execFinish] at hexec
    repeat' split at hexec
    all_goals cases hexec; exact sameOutside_refl s
  | reserved =>
    simp only [exec, execReserved] at hexec
    repeat' split at hexec
    all_goals cases hexec; exact sameOutside_refl s
  | _ => cases hcommand

/-! ## Without a session (R55, R448) -/

/-- Two outcomes that no host can tell apart: one state, or two without a session that agree on all R471 fixes. -/
def Alike : Host.Outcome State Fault Refusal → Host.Outcome State Fault Refusal → Prop
  | .next s, .next t => t = s ∨ s.active = false ∧ sameSpecifiedReset s t
  | .refused q, .refused r => q = r
  | _, _ => False

/-- Without a session STATUS shows RESULT, ACTIVE and ERR only. -/
theorem statusWord_of_inactive (h : s.active = false) :
    s.statusWord = 0#4 ++ 0#16 ++ s.err.code ++ 0#3 ++ BitVec.ofBool false ++ 0#1 ++ s.result.code := by
  simp only [State.statusWord, h, Bool.false_eq_true, if_false]

theorem statusWord_congr (h : sameSpecifiedReset s t) (hactive : s.active = false) : t.statusWord = s.statusWord := by
  have hactive' : t.active = false := by rw [h]; exact hactive
  rw [statusWord_of_inactive hactive, statusWord_of_inactive hactive']
  rw [h]

theorem readRegister_congr (h : sameSpecifiedReset s t) (hactive : s.active = false) (offset : Nat) :
    t.readRegister offset = s.readRegister offset := by
  have hstatus := statusWord_congr h hactive
  unfold State.readRegister
  split
  case h_1 => exact hstatus
  case h_12 => rw [State.pendWord, State.pendWord, h]
  case h_13 => rfl
  all_goals rw [h]

/-- The agreement is kept by every update of a field that R471 fixes. -/
theorem sameSpecifiedReset_writeRegister (h : sameSpecifiedReset s t) (offset : Nat) (v : Word) :
    sameSpecifiedReset (s.writeRegister offset v) (t.writeRegister offset v) := by
  unfold State.writeRegister
  split
  case h_7 => exact h
  all_goals unfold sameSpecifiedReset; conv_lhs => rw [h]

theorem sameSpecifiedReset_readData (h : sameSpecifiedReset s t) (v : Word) :
    sameSpecifiedReset { s with readData := v } { t with readData := v } := by
  unfold sameSpecifiedReset
  conv_lhs => rw [h]

theorem sameSpecifiedReset_host (h : sameSpecifiedReset s t) (rest : List HostAccess) :
    sameSpecifiedReset { s with host := rest } { t with host := rest } := by
  unfold sameSpecifiedReset
  conv_lhs => rw [h]

theorem sameSpecifiedReset_writeByte (h : sameSpecifiedReset s t) (addr : Word) (v : Byte) :
    sameSpecifiedReset (s.writeByte addr v) (t.writeByte addr v) := by
  unfold sameSpecifiedReset State.writeByte
  conv_lhs => rw [h]

theorem sameSpecifiedReset_raiseError (h : sameSpecifiedReset s t) (code : ErrCode) :
    sameSpecifiedReset (raiseError code s) (raiseError code t) := by
  unfold sameSpecifiedReset raiseError
  conv_lhs => rw [h]

theorem sameSpecifiedReset_sessionReset (h : sameSpecifiedReset s t) :
    sameSpecifiedReset (sessionReset s) (sessionReset t) := by
  unfold sameSpecifiedReset sessionReset
  conv_lhs => rw [h]

/-- R448: a session's start overwrites every field that R471 leaves open. -/
theorem sessionStart_congr (h : sameSpecifiedReset s t) (role : Role) (mode : Mode) (btype : BlockType) :
    sessionStart { sessionReset t with role := role, mode := mode, btype := btype } =
      sessionStart { sessionReset s with role := role, mode := mode, btype := btype } := by
  rw [h]
  rfl

theorem alike_noSession (h : sameSpecifiedReset s t) (hactive : s.active = false) :
    Alike (.next (noSession s)) (.next (noSession t)) :=
  .inr ⟨hactive, sameSpecifiedReset_raiseError h _⟩

/-- Every command of a host without a session. -/
theorem exec_alike {i : Instr} (hcommand : i.isCommand = true) (h : sameSpecifiedReset s t) (hactive : s.active = false) :
    Alike (exec i s) (exec i t) := by
  have hactive' : t.active = false := by rw [h]; exact hactive
  cases i with
  | initEnc mode btype =>
    cases hmode : Mode.ofByte mode with
    | none =>
      rw [exec_initEnc_of_mode_none btype s hmode, exec_initEnc_of_mode_none btype t hmode]
      exact .inr ⟨rfl, sameSpecifiedReset_raiseError (sameSpecifiedReset_sessionReset h) _⟩
    | some m =>
      cases hbtype : BlockType.ofByte btype with
      | none =>
        rw [exec_initEnc_of_blockType_none s hmode hbtype, exec_initEnc_of_blockType_none t hmode hbtype]
        exact .inr ⟨rfl, sameSpecifiedReset_raiseError (sameSpecifiedReset_sessionReset h) _⟩
      | some bt =>
        rw [exec_initEnc_of_good s hmode hbtype, exec_initEnc_of_good t hmode hbtype]
        exact .inl (sessionStart_congr h ..)
  | initDec =>
    rw [exec_initDec, exec_initDec]
    exact .inl (sessionStart_congr h ..)
  | process flush =>
    have hoverlap : t.viewsOverlap = s.viewsOverlap := by rw [h]; rfl
    cases hviews : s.viewsOverlap with
    | true =>
      rw [exec_process_of_overlap flush hviews, exec_process_of_overlap flush (hoverlap.trans hviews)]
      rfl
    | false =>
      rw [exec_of_noSession (sessionCommand_process hviews) hactive,
        exec_of_noSession (sessionCommand_process (hoverlap.trans hviews)) hactive']
      exact alike_noSession h hactive
  | finish =>
    rw [exec_of_noSession sessionCommand_finish hactive, exec_of_noSession sessionCommand_finish hactive']
    exact alike_noSession h hactive
  | reserved =>
    rw [exec_of_noSession sessionCommand_reserved hactive, exec_of_noSession sessionCommand_reserved hactive']
    exact alike_noSession h hactive
  | _ => cases hcommand

/-- Every access of a host without a session. -/
theorem hostAccess_alike (a : HostAccess) (h : sameSpecifiedReset s t) (hactive : s.active = false) :
    Alike (hostAccess a s) (hostAccess a t) := by
  have hbacked : ∀ addr, t.backed addr = s.backed addr := fun addr => by rw [h]; rfl
  have hoffset : ∀ addr, t.windowOffset addr = s.windowOffset addr := fun addr => by rw [h]; rfl
  cases a with
  | regWrite width addr v =>
    simp only [hostAccess, hoffset]
    split
    · rfl
    · split
      · exact exec_alike (decodeCommand_isCommand v).2 h hactive
      · refine .inr ⟨?_, sameSpecifiedReset_writeRegister h _ v⟩
        rw [writeRegister_state]
        exact hactive
  | regRead width addr =>
    simp only [hostAccess, hoffset, readRegister_congr h hactive]
    split
    · rfl
    · exact .inr ⟨hactive, sameSpecifiedReset_readData h _⟩
  | memWrite addr v =>
    simp only [hostAccess, hbacked]
    split
    · exact .inr ⟨hactive, sameSpecifiedReset_writeByte h addr v⟩
    · rfl
  | memRead addr =>
    have hread : t.readByte addr = s.readByte addr := by rw [h]; rfl
    simp only [hostAccess, hbacked, hread]
    split
    · exact .inr ⟨hactive, sameSpecifiedReset_readData h _⟩
    · rfl
  | hardwareReset =>
    refine .inl ?_
    rw [h]
    rfl

theorem step_alike (h : sameSpecifiedReset s t) (hactive : s.active = false) : Alike (step s) (step t) := by
  have hhost : t.host = s.host := by rw [h]
  cases hs : s.host with
  | nil =>
    simp only [step, hhost, hs]
    exact .inr ⟨hactive, h⟩
  | cons a rest =>
    simp only [step, hhost, hs]
    exact hostAccess_alike a (sameSpecifiedReset_host h rest) hactive

/-- Settles O60: what no host can tell apart shows it the same. -/
theorem unspecifiedFieldsAreNotReadWithoutASession : Obligations.UnspecifiedFieldsAreNotReadWithoutASession := by
  unfold Obligations.UnspecifiedFieldsAreNotReadWithoutASession
  intro s t hsame hactive
  have halike := step_alike hsame hactive
  refine ⟨fun s' hs => ?next, fun r hs => ?refused, fun f hs => ?fault⟩
  case next =>
    rw [hs] at halike
    cases ht : step t with
    | next t' =>
      rw [ht] at halike
      refine ⟨t', rfl, ?_⟩
      obtain rfl | ⟨hactive', hsame'⟩ := halike
      · exact ⟨rfl, rfl, rfl, rfl, rfl, rfl, fun _ => rfl, fun _ => rfl⟩
      · have hpend := readRegister_congr hsame' hactive' 0x30
        refine ⟨?_, statusWord_congr hsame' hactive', ?_, ?_, ?_, hpend, fun _ => hsame', fun h => ?_⟩
        · rw [hsame']
        · rw [hsame']
        · rw [hsame']
        · rw [hsame']
        · rw [hactive'] at h; cases h
    | fault f => rw [ht] at halike; exact halike.elim
    | refused r => rw [ht] at halike; exact halike.elim
  case refused =>
    rw [hs] at halike
    cases ht : step t with
    | next t' => rw [ht] at halike; exact halike.elim
    | fault f => rw [ht] at halike; exact halike.elim
    | refused q => rw [ht] at halike; rw [show r = q from halike]
  case fault =>
    rw [hs] at halike
    exact halike.elim

end Sys2Proof.Proofs.HostSide
end

section
/-!
PROOFS. The invariant (R41, R49, R52, R357, R404): reset meets it, every micro-step of the PROCESS loop keeps it, and so
does every host access; and in a state that meets it no resumption point is without a rule (R436).
-/

namespace Sys2Proof.Proofs.Invariant

open Sys2Proof.Machine Sys2Proof.Statements Sys2Proof.Proofs.CommandWord Sys2Proof.Proofs.HostCommands
open Sys2Proof.Proofs.ErrorLatch Sys2Proof.Proofs.Views Sys2Proof.Proofs.MicroStep Sys2Proof.Proofs.Tokens
open Sys2Proof.Proofs.ProcessFrame Sys2Proof.Proofs.ProcessEnd Sys2Proof.Proofs.EncoderBlocks Sys2Proof.Proofs.HostSide

variable {s t u : State} {flush : Bool}

/-- Settles O57. -/
theorem resetMeetsTheInvariant : Obligations.ResetMeetsTheInvariant := by
  unfold Obligations.ResetMeetsTheInvariant
  exact {
    memWf := rfl
    htWf := rfl
    bridgeCount := by decide
    osbCap := by decide
    errResult := by decide
    noSession := fun _ => rfl
    session := nofun }

/-! ## The session's invariant for each role -/

theorem sessionInv_of_encode (hrole : t.role = .encode) (hbridge : t.k < t.nextRead ∨ t.k = 0) (hpoint : t.pointAssigned)
    (hgroup : t.encoderGroupOk) (hsig : t.sig.toNat < 2 ^ t.shift) (hcopy : t.encoderCopyOk)
    (hfin : t.fin = true → t.stage = .footer) (hstage : t.stage ≠ .finished)
    (hflushed : t.flushed = true ↔ t.stage = .footer) : t.SessionInv where
  bridge := hbridge
  point := hpoint
  encoderGroup := hgroup
  encoderSig _ := hsig
  encoderCopy := hcopy
  decoderGroup h := by simp [hrole] at h
  decoderCopy h := by simp [hrole] at h
  gathered h := by simp [hrole] at h
  finStage h := .inl (hfin h)
  finishedDone h := absurd h hstage
  flushedStage := by simp [hrole, hstage, hflushed]

theorem sessionInv_of_decode (hrole : t.role = .decode) (hbridge : t.k < t.nextRead ∨ t.k = 0) (hpoint : t.pointAssigned)
    (hgroup : t.decoderGroupOk) (hcopy : t.decoderCopyOk) (hacc : t.acc.length % 4 = 0 ∧ t.acc.length < t.recordSize)
    (hfin : t.fin = true → t.stage = .footer) (hstage : t.stage ≠ .finished) (hflushed : t.flushed = false) :
    t.SessionInv where
  bridge := hbridge
  point := hpoint
  encoderGroup h := by simp [hrole] at h
  encoderSig h := by simp [hrole] at h
  encoderCopy h := by simp [hrole] at h
  decoderGroup := hgroup
  decoderCopy := hcopy
  gathered _ := hacc
  finStage h := .inl (hfin h)
  finishedDone h := absurd h hstage
  flushedStage := by simp [hrole, hflushed]

/-- The invariant in the PROCESS loop, whose ERR and RESULT are settled at its end. -/
structure LoopInv (s : State) : Prop where
  memWf : s.mem.wf = true
  htWf : s.ht.wf = true
  bridgeCount : s.k < 4
  osbCap : s.osb.length ≤ 272
  session : s.SessionInv

theorem LoopInv.of_inv (h : s.Inv) (hactive : s.active = true) : LoopInv s :=
  ⟨h.memWf, h.htWf, h.bridgeCount, h.osbCap, h.session hactive⟩

/-- The session's invariant speaks of the session alone; of the OSB it asks only that FINISHED leaves it empty. -/
theorem sessionInv_congr (h : s.SessionInv) (hosb : s.osb = [] → t.osb = [])
    (ht : t = { s with
      inBase := t.inBase, inPos := t.inPos, inCap := t.inCap, outBase := t.outBase, outPos := t.outPos
      outCap := t.outCap, result := t.result, err := t.err, totalRead := t.totalRead, totalWritten := t.totalWritten
      osb := t.osb, mem := t.mem, host := t.host, readData := t.readData }) : t.SessionInv := by
  rw [ht]
  exact {
    bridge := h.bridge
    point := h.point
    encoderGroup := h.encoderGroup
    encoderSig := h.encoderSig
    encoderCopy := h.encoderCopy
    decoderGroup := h.decoderGroup
    decoderCopy := h.decoderCopy
    gathered := h.gathered
    finStage := h.finStage
    finishedDone := fun hstage => (h.finishedDone hstage).imp_right hosb
    flushedStage := h.flushedStage }

theorem LoopInv.of_answer (h : LoopInv s) (result : Result) (err : ErrCode) :
    LoopInv { s with result := result, err := err } where
  memWf := h.memWf
  htWf := h.htWf
  bridgeCount := h.bridgeCount
  osbCap := h.osbCap
  session := sessionInv_congr h.session id rfl

theorem LoopInv.drain (h : LoopInv s) : LoopInv (drain s) := by
  obtain ⟨mem, hstate, hwf, -⟩ := drain_state s
  rw [hstate]
  exact {
    memWf := hwf h.memWf
    htWf := h.htWf
    bridgeCount := h.bridgeCount
    osbCap := by
      have := h.osbCap
      simp only [List.length_drop]
      omega
    session := sessionInv_congr h.session (fun hosb => by simp [hosb]) rfl }

/-! ## The encoder's micro-steps -/

theorem flushed_eq_false (h : s.SessionInv) (hstage : s.stage = .header ∨ s.stage = .blocks) : s.flushed = false := by
  have := h.flushedStage
  rcases hstage with hstage | hstage <;> simpa [hstage] using this

theorem k_eq_zero (h : s.SessionInv) (hnext : s.nextRead = 0) : s.k = 0 := by
  have := h.bridge
  omega

theorem flagCount_le (bt : BlockType) : bt.flagCount = 32 ∨ bt.flagCount = 64 := by cases bt <;> simp [BlockType.flagCount]

/-- The OSB has room for a block whose payload is no longer than its input. -/
theorem closeBlock_osb_length (final : Bool) (hbody : s.body.length ≤ s.blockBytes) :
    (closeBlock final s).osb.length ≤ 272 := by
  have hlength : (closeBlock final s).osb.length = 4 + s.blockBody.length + 4 := by
    cases final <;> simp [closeBlock, Nat.add_assoc]
  have hwidth := flagCount_le s.btype
  simp only [State.blockBytes, State.groupWidth] at hbody
  rw [hlength, State.blockBody]
  split
  · simp only [List.length_append, bytesLE_length, State.sigBytes, State.groupWidth]
    omega
  · omega

/-- CloseBlock, from a point of an encoder's block with the bridge empty. -/
theorem LoopInv.closeBlock (final : Bool) (hmem : s.mem.wf = true) (hht : s.ht.wf = true) (hrole : s.role = .encode)
    (hstage : s.stage = .blocks) (hk : s.k = 0) (hsig : s.sig.toNat < 2 ^ s.shift) (hfin : s.fin = false)
    (hflushed : s.flushed = false) (hbody : s.body.length ≤ s.blockBytes) : LoopInv (closeBlock final s) where
  memWf := by cases final <;> exact hmem
  htWf := by cases final <;> exact hht
  bridgeCount := by cases final <;> (show s.k < 4; omega)
  osbCap := closeBlock_osb_length final hbody
  session := by
    cases final with
    | false =>
      rw [closeBlock_open]
      exact sessionInv_of_encode hrole (.inr hk) (fun _ => .inl rfl) (fun _ _ _ h => by simp at h) hsig
        (fun _ _ _ h => by simp at h) (by simp [hfin]) (by simp [hstage]) (by simp [hflushed, hstage])
    | true =>
      rw [closeBlock_final]
      exact sessionInv_of_encode hrole (.inr hk) nofun nofun hsig nofun (fun _ => rfl) (by simp) (by simp)

theorem toNat_or_shifted_one_lt {x : DWord} {place : Nat} (hx : x.toNat < 2 ^ place) :
    (x ||| 1#64 <<< place).toNat < 2 ^ (place + 1) := by
  rw [BitVec.toNat_or, BitVec.toNat_shiftLeft]
  refine Nat.or_lt_two_pow (hx.trans (Nat.pow_lt_pow_right (by decide) (Nat.lt_succ_self _))) ?_
  refine (Nat.mod_le _ _).trans_lt ?_
  simp [Nat.shiftLeft_eq, Nat.pow_succ]

/-- One chunk keeps the signature's unused bits clear. -/
theorem encodeChunk_sig_lt (bytes : List Byte) (hsig : s.sig.toNat < 2 ^ s.shift) :
    (encodeChunk bytes s).sig.toNat < 2 ^ (s.shift + 1) := by
  by_cases hhit : s.entry (chunkHash (chunkOf bytes)) = chunkOf bytes
  · rw [encodeChunk_of_hit bytes s hhit]
    exact toNat_or_shifted_one_lt hsig
  · rw [encodeChunk_of_miss bytes s hhit]
    exact hsig.trans (Nat.pow_lt_pow_right (by decide) (Nat.lt_succ_self _))

/-- A stall leaves the bridge below the read it could not do. -/
theorem LoopInv.of_shortRead {n : Nat} (h : LoopInv s) (hn : n ≤ 4) (hnext : s.nextRead = n)
    (hread : readUnit n s = .insufficient t) : LoopInv t := by
  obtain ⟨hshort, -, ht⟩ := readUnit_eq_insufficient hread
  have hk : t.k = s.k + s.inAvail := by rw [ht]
  have hsession : t.SessionInv := by
    have hk' : t.k < n := by omega
    rw [ht] at hk' ⊢
    have hs := h.session
    exact {
      bridge := .inl (hk'.trans_eq hnext.symm)
      point := hs.point
      encoderGroup := hs.encoderGroup
      encoderSig := hs.encoderSig
      encoderCopy := hs.encoderCopy
      decoderGroup := hs.decoderGroup
      decoderCopy := hs.decoderCopy
      gathered := hs.gathered
      finStage := hs.finStage
      finishedDone := hs.finishedDone
      flushedStage := hs.flushedStage }
  exact {
    memWf := by rw [ht]; exact h.memWf
    htWf := by rw [ht]; exact h.htWf
    bridgeCount := by omega
    osbCap := by rw [ht]; exact h.osbCap
    session := hsession }

/-- The state after a read that took `count` bytes from the view and emptied the bridge. -/
def afterRead (count : Nat) (s : State) : State :=
  { s with k := 0, inPos := s.inPos + BitVec.ofNat 32 count, totalRead := s.totalRead + BitVec.ofNat 64 count }

@[simp] theorem afterRead_role (count : Nat) (s : State) : (afterRead count s).role = s.role := rfl
@[simp] theorem afterRead_mode (count : Nat) (s : State) : (afterRead count s).mode = s.mode := rfl
@[simp] theorem afterRead_stage (count : Nat) (s : State) : (afterRead count s).stage = s.stage := rfl
@[simp] theorem afterRead_fin (count : Nat) (s : State) : (afterRead count s).fin = s.fin := rfl
@[simp] theorem afterRead_flushed (count : Nat) (s : State) : (afterRead count s).flushed = s.flushed := rfl
@[simp] theorem afterRead_body (count : Nat) (s : State) : (afterRead count s).body = s.body := rfl
@[simp] theorem afterRead_osb (count : Nat) (s : State) : (afterRead count s).osb = s.osb := rfl

theorem openBlock_inv (h : LoopInv s) (hrole : s.role = .encode) (hfin : s.fin = false)
    (hstage : s.stage = .blocks) (hks : s.ks = .prepare) : LoopInv (openBlock s) := by
  have hs := h.session
  have hk : s.k = 0 := k_eq_zero hs (by simp [State.nextRead, hrole, hstage, hks])
  have hks' : (openBlock s).ks = if s.mode = .chameleon then .checkSig else .copyBytes := by
    unfold openBlock
    cases s.mode <;> rfl
  refine {
    memWf := h.memWf
    htWf := h.htWf
    bridgeCount := h.bridgeCount
    osbCap := h.osbCap
    session := sessionInv_of_encode hrole (.inr hk) (fun _ => ?_) (fun _ _ _ _ => ?_) Nat.one_pos
      (fun _ _ _ _ => ⟨Nat.zero_le _, rfl⟩) (fun hf => absurd hf (by simp [openBlock, hfin]))
      (by simp [openBlock, hstage]) (by simp [openBlock, hstage, flushed_eq_false hs (.inr hstage)]) }
  · have hmode' : (openBlock s).mode = s.mode := rfl
    rw [hks', hmode']
    cases s.mode <;> simp
  · refine ⟨Nat.zero_le _, fun hread => ?_, rfl, le_rfl⟩
    rw [hks'] at hread
    split at hread <;> cases hread

theorem encReadChunk_inv (h : LoopInv s) (hrole : s.role = .encode) (hfin : s.fin = false)
    (hstage : s.stage = .blocks) (hmode : s.mode = .chameleon) (hks : s.ks = .readChunk) :
    (encReadChunk flush s).Meets LoopInv LoopInv LoopInv := by
  have hs := h.session
  have hsig := hs.encoderSig hrole
  have hnext : s.nextRead = 4 := by simp [State.nextRead, hrole, hstage, hks, hmode]
  obtain ⟨-, hlt, hblen, hbody⟩ := hs.encoderGroup hrole hstage hmode (.inr hks)
  have hlt := hlt hks
  refine encReadChunk_meets (fun bytes t hread => ?_) fun t hread => ⟨fun _ => h.of_shortRead le_rfl hnext hread, fun _ => ?_⟩
  · have hlength := readUnit_ok_length hread h.bridgeCount.le h.bridgeCount.le
    obtain ⟨-, -, rfl⟩ := readUnit_eq_ok hread
    have hsig' := encodeChunk_sig_lt (s := afterRead (4 - s.k) s) bytes hsig
    obtain ⟨sig, body, ht, hchunk, hgrows, hwf⟩ := encodeChunk_state bytes (afterRead (4 - s.k) s)
    change LoopInv (encodeChunk bytes (afterRead (4 - s.k) s))
    rw [hchunk] at hsig' ⊢
    have hgrows : body.length ≤ s.body.length + 4 := by simpa [hlength] using hgrows
    exact {
      memWf := h.memWf
      htWf := hwf h.htWf
      bridgeCount := Nat.zero_lt_succ _
      osbCap := h.osbCap
      session := sessionInv_of_encode hrole (.inr rfl) (fun _ => by simp [hmode])
        (fun _ _ _ _ => ⟨hlt, by simp, by show s.blen + 4 = 4 * (s.shift + 1); omega,
          by show body.length ≤ 4 * (s.shift + 1); omega⟩) hsig' (fun _ _ _ h => by simp at h) (by simp [hfin])
        (by simp [hstage]) (by simp [hstage, flushed_eq_false hs (.inr hstage)]) }
  · have hflushed := flushed_eq_false hs (.inr hstage)
    obtain ⟨hshort, -, ht⟩ := readUnit_eq_insufficient hread
    have hstaged : (t.scr.bytes.take t.k).length ≤ 3 := by
      have hk : t.k = s.k + s.inAvail := by rw [ht]
      simp
      omega
    have hbody' : t.body = s.body := by rw [ht]
    rw [encodeTail_eq]
    refine .closeBlock true (by rw [ht]; exact h.memWf) (by rw [ht]; exact h.htWf) (by rw [ht]; exact hrole)
      (by rw [ht]; exact hstage) rfl (by rw [ht]; exact hsig) (by rw [ht]; exact hfin)
      (by rw [ht]; exact hflushed) ?_
    have hwidth : t.groupWidth = s.groupWidth := by rw [ht]; rfl
    show (t.body ++ t.scr.bytes.take t.k).length ≤ 4 * t.groupWidth
    rw [List.length_append, hbody', hwidth]
    omega

theorem encCopyBytes_inv (h : LoopInv s) (hrole : s.role = .encode) (hfin : s.fin = false)
    (hstage : s.stage = .blocks) (hmode : s.mode = .copy) (hks : s.ks = .copyBytes) :
    (encCopyBytes flush s).Meets LoopInv LoopInv LoopInv := by
  have hs := h.session
  have hsig := hs.encoderSig hrole
  obtain ⟨hle, hbody⟩ := hs.encoderCopy hrole hstage hmode hks
  have hnext : s.nextRead = 1 := by simp [State.nextRead, hrole, hstage, hks, hmode]
  have hk : s.k = 0 := by have := hs.bridge; omega
  refine encCopyBytes_meets (fun _ => ?_) (fun bytes t hroom hread => ?_)
    fun t _ hread => ⟨fun _ => h.of_shortRead (by decide) hnext hread, fun _ => ?_⟩
  · exact .closeBlock false h.memWf h.htWf hrole hstage hk hsig hfin (flushed_eq_false hs (.inr hstage)) (hbody ▸ hle)
  · have hlength := readUnit_ok_length hread (by omega) (by omega)
    obtain ⟨-, -, rfl⟩ := readUnit_eq_ok hread
    exact {
      memWf := h.memWf
      htWf := h.htWf
      bridgeCount := Nat.zero_lt_succ _
      osbCap := h.osbCap
      session := sessionInv_of_encode hrole (.inr rfl) hs.point (fun _ _ h => by simp [hmode] at h) hsig
        (fun _ _ _ _ => ⟨by show s.blen + 1 ≤ s.blockBytes; omega,
          by show (s.body ++ bytes).length = s.blen + 1; simp [hlength, hbody]⟩) (by simp [hfin])
        (by simp [hstage]) (by simp [hstage, flushed_eq_false hs (.inr hstage)]) }
  · have hflushed := flushed_eq_false hs (.inr hstage)
    obtain ⟨hshort, -, ht⟩ := readUnit_eq_insufficient hread
    have hk' : t.k = 0 := by rw [ht]; show s.k + s.inAvail = 0; omega
    exact .closeBlock true (by rw [ht]; exact h.memWf) (by rw [ht]; exact h.htWf) (by rw [ht]; exact hrole)
      (by rw [ht]; exact hstage) hk' (by rw [ht]; exact hsig) (by rw [ht]; exact hfin)
      (by rw [ht]; exact hflushed) (by rw [ht]; exact hbody ▸ hle)

theorem microStep_encode_inv (h : LoopInv s) (hrole : s.role = .encode) (hfin : s.fin = false) :
    (microStep flush s).Meets LoopInv LoopInv LoopInv := by
  have hs := h.session
  have hsig := hs.encoderSig hrole
  refine microStep_encode_meets hrole ?header ?prepare ?full ?next ?chunk ?copy ?footer ?unruled
  case header =>
    intro hstage
    have hk : s.k = 0 := k_eq_zero hs (by simp [State.nextRead, hrole, hstage])
    exact {
      memWf := h.memWf
      htWf := h.htWf
      bridgeCount := h.bridgeCount
      osbCap := by simp [State.headerBytes]
      session := sessionInv_of_encode hrole (.inr hk) (fun _ => .inl rfl) (fun _ _ _ h => by simp at h) hsig
        (fun _ _ _ h => by simp at h) (by simp [hfin]) (by simp) (by simp [flushed_eq_false hs (.inl hstage)]) }
  case prepare => exact fun hstage hks => openBlock_inv h hrole hfin hstage hks
  case full =>
    intro hstage hmode hks hfull
    have hk : s.k = 0 := k_eq_zero hs (by simp [State.nextRead, hrole, hstage, hks])
    obtain ⟨-, -, -, hbody⟩ := hs.encoderGroup hrole hstage hmode (.inl hks)
    exact .closeBlock false h.memWf h.htWf hrole hstage hk hsig hfin (flushed_eq_false hs (.inr hstage))
      (by rwa [hfull] at hbody)
  case next =>
    intro hstage hmode hks hroom
    have hk : s.k = 0 := k_eq_zero hs (by simp [State.nextRead, hrole, hstage, hks])
    obtain ⟨hle, -, hblen, hbody⟩ := hs.encoderGroup hrole hstage hmode (.inl hks)
    exact {
      memWf := h.memWf
      htWf := h.htWf
      bridgeCount := h.bridgeCount
      osbCap := h.osbCap
      session := sessionInv_of_encode hrole (.inr hk) (fun _ => by simp [hmode])
        (fun _ _ _ _ => ⟨hle, fun _ => Nat.lt_of_le_of_ne hle hroom, hblen, hbody⟩) hsig
        (fun _ _ _ h => by simp at h) (by simp [hfin]) (by simp [hstage])
        (by simp [hstage, flushed_eq_false hs (.inr hstage)]) }
  case chunk => exact fun hstage hmode hks => encReadChunk_inv h hrole hfin hstage hmode hks
  case copy => exact fun hstage hmode hks => encCopyBytes_inv h hrole hfin hstage hmode hks
  case footer =>
    intro hstage
    have hk : s.k = 0 := k_eq_zero hs (by simp [State.nextRead, hrole, hstage])
    exact {
      memWf := h.memWf
      htWf := h.htWf
      bridgeCount := h.bridgeCount
      osbCap := by simp [State.footerBytes]
      session := sessionInv_of_encode hrole (.inr hk) (fun h => by simp [hstage] at h) (fun _ h => by simp [hstage] at h)
        hsig (fun _ h => by simp [hstage] at h) (fun _ => hstage) (by simp [hstage])
        (by simpa [hrole, hstage] using hs.flushedStage) }
  case unruled => exact fun _ => h.of_answer _ _

/-! ## The decoder's micro-steps -/

theorem nextRead_of_tokenPoint {ctx : Context} (hrole : s.role = .decode) (hfin : s.fin = false) (h : TokenPoint s ctx) :
    s.nextRead = ctx.unitLength := by
  cases h with
  | streamHeader stage => simp only [State.nextRead, hrole, stage]; rfl
  | blockHeader stage ks => simp only [State.nextRead, hrole, stage, ks]; rfl
  | signature stage ks mode =>
    rcases sigContext_cases s with h | h <;> rw [h] <;> simp only [State.nextRead, hrole, stage, ks] <;> rfl
  | chunk stage ks mode more =>
    simp only [State.nextRead, hrole, stage, ks, if_neg more]
    rcases chunkContext_cases s with h | h <;> rw [h] <;> rfl
  | tail stage ks mode more => simp only [State.nextRead, hrole, stage, ks]; rfl
  | trailer stage ks => simp only [State.nextRead, hrole, stage, ks]; rfl
  | streamFooter stage => simp [State.nextRead, hrole, stage, hfin, Context.unitLength, Context.isGathered]

theorem unitLength_le {ctx : Context} (hs : s.SessionInv) (hrole : s.role = .decode) (h : TokenPoint s ctx) :
    ctx.unitLength ≤ 4 := by
  cases h with
  | signature => rcases sigContext_cases s with h | h <;> rw [h] <;> decide
  | chunk => rcases chunkContext_cases s with h | h <;> rw [h] <;> decide
  | tail stage ks mode more =>
    obtain ⟨-, -, ht, -⟩ := hs.decoderGroup hrole stage mode (by simp [ks]) (by simp [ks])
    exact Nat.le_of_lt ht
  | _ => decide

theorem recordSize_of_gathered {ctx : Context} (hfin : s.fin = false) (h : TokenPoint s ctx)
    (hgathered : ctx.isGathered = true) : s.recordSize = ctx.length := by
  cases h with
  | streamHeader stage => simp only [State.recordSize, stage]; rfl
  | signature stage ks mode =>
    simp only [State.recordSize, stage, ks]
    unfold State.sigContext State.sigBytes State.groupWidth
    cases s.btype <;> rfl
  | chunk => rcases chunkContext_cases s with h | h <;> rw [h] at hgathered <;> cases hgathered
  | streamFooter stage => simp [State.recordSize, stage, hfin, Context.length]
  | _ => cases hgathered

theorem recordSize_bounds (s : State) : 0 < s.recordSize ∧ s.recordSize ≤ 16 := by
  have := flagCount_le s.btype
  unfold State.recordSize State.sigBytes State.groupWidth
  split
  · omega
  · split <;> omega
  · omega
  · omega

/-- A decoder's state with the bridge empty, after a micro-step from a good one. -/
theorem LoopInv.of_decode_step (h : LoopInv s) (hmem : t.mem = s.mem) (hht : t.ht.wf = true) (hk : t.k = 0)
    (hosb : t.osb.length ≤ 272) (hrole : t.role = .decode) (hrole' : s.role = .decode) (hpoint : t.pointAssigned)
    (hgroup : t.decoderGroupOk) (hcopy : t.decoderCopyOk) (hacc : t.acc.length % 4 = 0 ∧ t.acc.length < t.recordSize)
    (hfin : t.fin = true → t.stage = .footer) (hstage : t.stage ≠ .finished) (hflushed : t.flushed = s.flushed) :
    LoopInv t where
  memWf := hmem ▸ h.memWf
  htWf := hht
  bridgeCount := hk ▸ Nat.zero_lt_succ _
  osbCap := hosb
  session := sessionInv_of_decode hrole (.inr hk) hpoint hgroup hcopy hacc hfin hstage (by
    have := h.session.flushedStage
    rw [hflushed]
    simpa [hrole'] using this)

/-- The points of a block at which no record is gathered are alike in what they ask of `acc`. -/
theorem gathered_of_no_record (hacc : s.acc.length % 4 = 0 ∧ s.acc.length < s.recordSize) (hstage : s.stage = .blocks)
    (hks : s.ks ≠ .checkSig) (hacc' : t.acc = s.acc) (hstage' : t.stage = .blocks) (hks' : t.ks ≠ .checkSig) :
    t.acc.length % 4 = 0 ∧ t.acc.length < t.recordSize := by
  have hsize : ∀ {u : State}, u.stage = .blocks → u.ks ≠ .checkSig → u.recordSize = 4 := by
    intro u hu hne
    unfold State.recordSize
    split <;> simp_all
  rw [hsize hstage hks] at hacc
  rw [hsize hstage' hks', hacc']
  exact hacc

/-- The run of the token that is due, its last unit read. -/
theorem tokenRun_inv {ctx : Context} {unit : List Byte} (count : Nat) (h : LoopInv s) (hrole : s.role = .decode)
    (hfin : s.fin = false) (herr : s.err = .none) (hosb : s.osb = []) (hpoint : TokenPoint s ctx) (hlength : unit.length ≤ 4) :
    (afterToken (exec (decodeExact ctx (ctx.tokenBytes (afterRead count s) unit)) (afterRead count s))).Meets
      LoopInv LoopInv LoopInv := by
  have hs := h.session
  have hunfinished : s.stage ≠ .finished := fun hstage => by simpa [hfin] using (hs.finishedDone hstage).1
  have hgathered := hs.gathered hrole
  have hfin' : ∀ {P : Prop}, s.fin = true → P := fun hf => by simp [hfin] at hf
  have hread : LoopInv (afterRead count s) :=
    h.of_decode_step rfl h.htWf rfl h.osbCap hrole hrole hs.point hs.decoderGroup hs.decoderCopy hgathered hfin'
      hunfinished rfl
  have hempty : ∀ u : State, ([] : List Byte).length % 4 = 0 ∧ ([] : List Byte).length < u.recordSize :=
    fun u => ⟨rfl, (recordSize_bounds u).1⟩
  refine tokenRun_meets hpoint herr ?raise ?streamHeader ?blockHeader ?signature ?chunk ?tail ?trailer ?streamFooter
  case raise =>
    refine fun code _ => ⟨hread.of_answer _ _, ?_⟩
    exact LoopInv.of_answer (s := { afterRead count s with acc := [] })
      (h.of_decode_step rfl h.htWf rfl h.osbCap hrole hrole hs.point hs.decoderGroup hs.decoderCopy (hempty _) hfin'
        hunfinished rfl) _ _
  case streamHeader =>
    exact fun _ m bt => h.of_decode_step rfl h.htWf rfl h.osbCap hrole hrole (fun _ => .inl rfl)
      (fun _ _ _ hne => absurd rfl hne) (fun _ _ _ hne => by simp at hne) (hempty _) hfin' (by simp) rfl
  case blockHeader =>
    refine fun hstage hks len final hlen => ⟨fun hmode => ?_, fun hmode => ?_⟩
    · exact h.of_decode_step rfl h.htWf rfl h.osbCap hrole hrole (fun _ => by simp [show s.mode = .chameleon from hmode])
        (fun _ _ _ _ _ => ⟨hlen, (Nat.div_add_mod len.toNat 4).symm, Nat.mod_lt _ (by decide), Nat.zero_le _⟩)
        (fun _ _ hcopy => by simp [show s.mode = .chameleon from hmode] at hcopy) (hempty _) hfin' hunfinished rfl
    · exact h.of_decode_step rfl h.htWf rfl h.osbCap hrole hrole (fun _ => by simp [show s.mode = .copy from hmode])
        (fun _ _ hcham => by simp [show s.mode = .copy from hmode] at hcham) (fun _ _ _ _ => ⟨hlen, le_rfl⟩)
        (gathered_of_no_record hgathered hstage (by simp [hks]) rfl hstage (by simp)) hfin' hunfinished rfl
  case signature =>
    intro hstage hks hmode flags
    have hgroup := hs.decoderGroup hrole hstage hmode (by simp [hks]) (by simp [hks])
    exact h.of_decode_step rfl h.htWf rfl h.osbCap hrole hrole (fun _ => by simp [takeSignature, hmode])
      (fun _ _ _ _ _ => hgroup) (fun _ _ hcopy => by simp [takeSignature, hmode] at hcopy) (hempty _) hfin' hunfinished rfl
  case chunk =>
    intro hstage hks hmode hmore
    obtain ⟨hblen, hlen, ht, hle⟩ := hs.decoderGroup hrole hstage hmode (by simp [hks]) (by simp [hks])
    have hgroup : s.blen ≤ s.blockBytes ∧ s.blen = 4 * s.n + s.t ∧ s.t < 4 ∧ s.cidx + 1 ≤ s.n :=
      ⟨hblen, hlen, ht, by omega⟩
    have hcopy : s.mode ≠ .copy := by simp [hmode]
    refine ⟨fun g => ?_, fun c => ?_⟩
    · exact h.of_decode_step rfl h.htWf rfl (by simp [hosb]) hrole hrole hs.point (fun _ _ _ _ _ => hgroup)
        (fun _ _ hc => absurd hc hcopy) hgathered hfin' hunfinished rfl
    · exact h.of_decode_step rfl (setEntry_htWf s _ c h.htWf) rfl (by simp [hosb]) hrole hrole hs.point
        (fun _ _ _ _ _ => hgroup) (fun _ _ hc => absurd hc hcopy) hgathered hfin' hunfinished rfl
  case tail =>
    intro hstage hks hmode _
    have hbytes : (ctx.tokenBytes s unit).length ≤ 272 := by
      have := recordSize_bounds s
      unfold Context.tokenBytes
      split
      · rw [List.length_append]; omega
      · omega
    have hstaged : (s.osb ++ ctx.tokenBytes (afterRead count s) unit).length ≤ 272 := by
      simpa [hosb, Context.tokenBytes, afterRead] using hbytes
    exact h.of_decode_step rfl h.htWf rfl hstaged hrole hrole (fun _ => by simp [hrole])
      (fun _ _ _ _ hne => absurd rfl hne) (fun _ _ _ hne => by simp at hne)
      (gathered_of_no_record hgathered hstage (by simp [hks]) rfl hstage (by simp)) hfin' hunfinished rfl
  case trailer =>
    intro hstage hks
    refine ⟨?_, ?_⟩
    · exact h.of_decode_step rfl h.htWf rfl h.osbCap hrole hrole nofun nofun nofun (hempty _) hfin' (by simp) rfl
    · exact h.of_decode_step rfl h.htWf rfl h.osbCap hrole hrole (fun _ => .inl rfl)
        (fun _ _ _ hne => absurd rfl hne) (fun _ _ _ hne => by simp at hne)
        (gathered_of_no_record hgathered hstage (by simp [hks]) rfl hstage (by simp)) hfin' hunfinished rfl
  case streamFooter =>
    intro hstage
    have hne : s.stage ≠ .blocks := by simp [hstage]
    exact h.of_decode_step rfl h.htWf rfl h.osbCap hrole hrole (fun hb => absurd hb hne) (fun _ hb => absurd hb hne)
      (fun _ hb => absurd hb hne) (hempty _) (fun _ => hstage) hunfinished rfl

theorem microStep_decode_inv (h : LoopInv s) (hrole : s.role = .decode) (hfin : s.fin = false) (herr : s.err = .none)
    (hosb : s.osb = []) : (microStep flush s).Meets LoopInv LoopInv LoopInv := by
  have hs := h.session
  have hunfinished : s.stage ≠ .finished := fun hstage => by simpa [hfin] using (hs.finishedDone hstage).1
  have hgathered := hs.gathered hrole
  have hfin' : ∀ {P : Prop}, s.fin = true → P := fun hf => by simp [hfin] at hf
  refine microStep_decode_meets hrole ?token ?lastChunk ?noTail ?copy ?unruled
  case unruled => exact fun _ => h.of_answer _ _
  case lastChunk =>
    intro hstage hmode hks hlast
    have hk : s.k = 0 := k_eq_zero hs (by simp [State.nextRead, hrole, hstage, hks, hlast])
    have hgroup := hs.decoderGroup hrole hstage hmode (by simp [hks]) (by simp [hks])
    exact h.of_decode_step rfl h.htWf hk h.osbCap hrole hrole (fun _ => by simp [hmode, hrole]) (fun _ _ _ _ _ => hgroup)
      (fun _ _ hcopy => by simp [hmode] at hcopy)
      (gathered_of_no_record hgathered hstage (by simp [hks]) rfl hstage (by simp)) hfin' hunfinished rfl
  case noTail =>
    intro hstage hmode hks ht
    have hk : s.k = 0 := k_eq_zero hs (by simp [State.nextRead, hrole, hstage, hks, ht])
    exact h.of_decode_step rfl h.htWf hk h.osbCap hrole hrole (fun _ => by simp [hrole])
      (fun _ _ _ _ hne => absurd rfl hne) (fun _ _ hcopy => by simp [hmode] at hcopy)
      (gathered_of_no_record hgathered hstage (by simp [hks]) rfl hstage (by simp)) hfin' hunfinished rfl
  case copy =>
    intro hstage hmode hks
    obtain ⟨hblen, hcrem⟩ := hs.decoderCopy hrole hstage hmode hks
    refine decCopyBytes_meets (fun hdone => ?done) (fun bytes t hmore hread => ?byte) fun t hmore hread => ?short
    case done =>
      have hk : s.k = 0 := k_eq_zero hs (by simp [State.nextRead, hrole, hstage, hks, hdone])
      exact h.of_decode_step rfl h.htWf hk h.osbCap hrole hrole (fun _ => by simp [hrole])
        (fun _ _ _ _ hne => absurd rfl hne) (fun _ _ _ hne => by simp at hne)
        (gathered_of_no_record hgathered hstage (by simp [hks]) rfl hstage (by simp)) hfin' hunfinished rfl
    all_goals
      have hnext : s.nextRead = 1 := by simp [State.nextRead, hrole, hstage, hks, hmore]
      have hk : s.k = 0 := by have := hs.bridge; omega
    case byte =>
      have hlength := readUnit_ok_length hread (by omega) (by omega)
      obtain ⟨-, -, rfl⟩ := readUnit_eq_ok hread
      exact h.of_decode_step rfl h.htWf rfl (by simp [emit, hosb, hlength]) hrole hrole hs.point
        (fun _ _ hcham => by simp [emit, hmode] at hcham)
        (fun _ _ _ _ => ⟨hblen, by show s.crem - 1 ≤ s.blen; omega⟩) hgathered hfin' hunfinished rfl
    case short =>
      have := h.of_shortRead (by decide) hnext hread
      exact ⟨fun _ => this, fun _ => this.of_answer _ _⟩
  case token =>
    intro ctx hpoint
    have hn := unitLength_le hs hrole hpoint
    have hnext := nextRead_of_tokenPoint hrole hfin hpoint
    have hkle : s.k ≤ ctx.unitLength := by have := hs.bridge; omega
    refine fetchToken_meets hpoint.ne_command (fun unit t hread hlong hlt => ?part) (fun unit t hread _ => ?run)
      fun t hread => ⟨fun _ => h.of_shortRead hn hnext hread, fun _ => (h.of_shortRead hn hnext hread).of_answer _ _⟩
    case part =>
      have hlength := readUnit_ok_length hread hkle h.bridgeCount.le
      rw [Context.unitLength, if_pos hlong] at hlength
      obtain ⟨-, -, rfl⟩ := readUnit_eq_ok hread
      refine h.of_decode_step rfl h.htWf rfl h.osbCap hrole hrole hs.point hs.decoderGroup hs.decoderCopy ?_ hfin' hunfinished rfl
      have hlt : (s.acc ++ unit).length < s.recordSize := (recordSize_of_gathered hfin hpoint hlong).symm ▸ hlt
      refine ⟨?_, hlt⟩
      show (s.acc ++ unit).length % 4 = 0
      rw [List.length_append]
      omega
    case run =>
      have hlength := readUnit_ok_length hread hkle h.bridgeCount.le
      obtain ⟨-, -, rfl⟩ := readUnit_eq_ok hread
      exact tokenRun_inv _ h hrole hfin herr hosb hpoint (hlength.trans_le hn)

/-! ## The loop -/

theorem meets_and {P Q R P' Q' R' : State → Prop} {o : MicroOutcome} (h : o.Meets P Q R) (h' : o.Meets P' Q' R') :
    o.Meets (fun t => P t ∧ P' t) (fun t => Q t ∧ Q' t) fun t => R t ∧ R' t := by
  cases o with
  | cont s => exact ⟨h, h'⟩
  | stallInput s => exact ⟨h, h'⟩
  | raised s => exact ⟨h, h'⟩
  | stopped f => exact h
  | refused r => exact h

theorem microStep_inv (flush : Bool) (h : LoopInv s) (herr : s.err = .none) (hosb : s.osb = []) (hfin : s.fin = false) :
    (microStep flush s).Meets LoopInv LoopInv LoopInv := by
  cases hrole : s.role with
  | encode => exact microStep_encode_inv h hrole hfin
  | decode => exact microStep_decode_inv h hrole hfin herr hosb

theorem LoopInv.unfinished (h : LoopInv s) (hfin : s.fin = false) : s.stage ≠ .finished := fun hstage => by
  simpa [hfin] using (h.session.finishedDone hstage).1

theorem processLoop_inv {turns : Nat} (h : LoopInv s) (herr : s.err = .none)
    (hloop : processLoop turns flush s = .next t) : LoopInv t := by
  refine processLoop_induct (I := fun u => LoopInv u ∧ u.err = .none) (A := LoopInv) ?drain ?full ?done ?step turns s t
    ⟨h, herr⟩ hloop
  case drain => exact fun u ⟨hu, huerr⟩ => ⟨hu.drain, (drain_err_stage u).1.trans huerr⟩
  case full => exact fun u ⟨hu, _⟩ _ _ => hu.of_answer _ _
  case done => exact fun u ⟨hu, _⟩ _ _ => hu.of_answer _ _
  case step =>
    rintro u ⟨hu, huerr⟩ hosb hfin
    have hstep := meets_and (microStep_inv flush hu huerr hosb hfin)
      (microStep_progresses flush huerr (hu.unfinished hfin))
    exact meets_imp hstep (fun hv => ⟨hv.1, hv.2.1⟩) (fun hv => hv.1.of_answer _ _) (fun hv => hv.1)

/-! ## The host's accesses -/

theorem LoopInv.inv (h : LoopInv t) (hactive : t.active = true) (herr : t.err ≠ .none ↔ t.result = .error) : t.Inv where
  memWf := h.memWf
  htWf := h.htWf
  bridgeCount := h.bridgeCount
  osbCap := h.osbCap
  errResult := herr
  noSession hinactive := by simp [hactive] at hinactive
  session _ := h.session

theorem err_iff_of_loopAnswer (h : LoopAnswer t) : t.err ≠ .none ↔ t.result = .error := by
  cases h with
  | ready result fin osb err => simp [result, err]
  | stallIn result fin osb view err => simp [result, err]
  | stallOut result osb view err => simp [result, err]
  | error result fin osb err => simp [result, err]

/-- An access that touches no session. -/
theorem inv_of_host_update (h : s.Inv) (hmem : t.mem.wf = true)
    (ht : t = { s with
      inBase := t.inBase, inPos := t.inPos, inCap := t.inCap, outBase := t.outBase, outPos := t.outPos
      outCap := t.outCap, mem := t.mem, host := t.host, readData := t.readData }) : t.Inv where
  memWf := hmem
  htWf := by rw [ht]; exact h.htWf
  bridgeCount := by rw [ht]; exact h.bridgeCount
  osbCap := by rw [ht]; exact h.osbCap
  errResult := by rw [ht]; exact h.errResult
  noSession := by rw [ht]; exact h.noSession
  session := by
    intro hactive
    have hactive' : s.active = true := by rw [ht] at hactive; exact hactive
    refine sessionInv_congr (h.session hactive') (fun hosb => by rw [ht]; exact hosb) ?_
    conv_lhs => rw [ht]
    rw [ht]

/-- A command that only answers ERROR, with a code set. -/
theorem inv_of_error (h : s.Inv) {code : ErrCode} (hcode : code ≠ .none) :
    State.Inv { s with result := .error, err := code } where
  memWf := h.memWf
  htWf := h.htWf
  bridgeCount := h.bridgeCount
  osbCap := h.osbCap
  errResult := by simp [hcode]
  noSession := h.noSession
  session hactive := sessionInv_congr (h.session hactive) id rfl

theorem inv_of_sessionStart (h : s.Inv) (role : Role) (mode : Mode) (btype : BlockType) :
    (sessionStart { sessionReset s with role := role, mode := mode, btype := btype }).Inv where
  memWf := h.memWf
  htWf := rfl
  bridgeCount := Nat.zero_lt_succ _
  osbCap := Nat.zero_le _
  errResult := by simp [sessionReset]
  noSession _ := rfl
  session _ := by
    cases role with
    | encode =>
      exact sessionInv_of_encode rfl (.inr rfl) nofun nofun Nat.one_pos nofun nofun nofun (by simp)
    | decode =>
      exact sessionInv_of_decode rfl (.inr rfl) nofun nofun nofun ⟨rfl, by simp [State.recordSize]⟩ nofun nofun rfl

theorem inv_of_failedInit (h : s.Inv) {code : ErrCode} (hcode : code ≠ .none) :
    (raiseError code (sessionReset s)).Inv where
  memWf := h.memWf
  htWf := h.htWf
  bridgeCount := h.bridgeCount
  osbCap := Nat.zero_le _
  errResult := by simp [hcode]
  noSession _ := rfl
  session := nofun

theorem inv_of_hardwareReset (h : s.Inv) : (hardwareReset s).Inv where
  memWf := h.memWf
  htWf := rfl
  bridgeCount := Nat.zero_lt_succ _
  osbCap := Nat.zero_le _
  errResult := by simp [hardwareReset, State.reset]
  noSession _ := rfl
  session := nofun

/-- R407: FINISH commits a session whose bridge and records are empty. -/
theorem inv_of_finish (h : s.Inv) (hactive : s.active = true) (herr : s.err = .none) (hstage : s.stage = .footer)
    (hfin : s.fin = true) (hosb : s.osb = []) : State.Inv { s with stage := .finished, result := .ready } where
  memWf := h.memWf
  htWf := h.htWf
  bridgeCount := h.bridgeCount
  osbCap := h.osbCap
  errResult := by simp [herr]
  noSession := h.noSession
  session _ := by
    have hs := h.session hactive
    have hk : s.k = 0 := k_eq_zero hs (by cases hrole : s.role <;> simp [State.nextRead, hrole, hstage, hfin])
    exact {
      bridge := .inr hk
      point := nofun
      encoderGroup := nofun
      encoderSig := hs.encoderSig
      encoderCopy := nofun
      decoderGroup := nofun
      decoderCopy := nofun
      gathered := fun hrole => by
        have := hs.gathered hrole
        rwa [State.recordSize, hstage, hfin] at this
      finStage := fun _ => .inr rfl
      finishedDone := fun _ => ⟨hfin, hosb⟩
      flushedStage := by simpa [hstage] using hs.flushedStage }

/-- PROCESS with the views apart, FINISH and the reserved opcode, in no session and in a dead one (R400, R433). -/
theorem sessionCommand_inv {i : Instr} (hi : sessionCommand i s) (h : s.Inv) (hexec : exec i s = .next t)
    (hlive : s.active = true → s.err = .none → t.Inv) : t.Inv := by
  by_cases hactive : s.active = true
  · by_cases herr : s.err = .none
    · exact hlive hactive herr
    · cases (exec_of_latchedError hi hactive herr).symm.trans hexec
      exact inv_of_error h herr
  · cases (exec_of_noSession hi (by simpa using hactive)).symm.trans hexec
    exact inv_of_error h (by simp)

theorem exec_process_inv (h : s.Inv) (hexec : exec (.process flush) s = .next t) : t.Inv := by
  cases hviews : s.viewsOverlap with
  | true => cases (exec_process_of_overlap flush hviews).symm.trans hexec
  | false =>
    refine sessionCommand_inv (sessionCommand_process hviews) h hexec fun hactive herr => ?_
    by_cases hstage : s.stage = .finished
    · cases (exec_process_of_finished flush hviews hactive herr hstage).symm.trans hexec
      exact inv_of_error h (by simp)
    · rw [exec_process_of_entersLoop flush ⟨hactive, herr, hstage, hviews⟩, onBackedMemory_eq_next] at hexec
      obtain ⟨hloop, -⟩ := hexec
      exact (processLoop_inv (.of_inv h hactive) herr hloop).inv ((processLoop_frame hloop).host.active.trans hactive)
        (err_iff_of_loopAnswer (processLoop_answer herr hstage hloop).1)

theorem exec_command_inv {i : Instr} (hcommand : i.isCommand = true) (h : s.Inv) (hexec : exec i s = .next t) : t.Inv := by
  cases i with
  | initEnc mode btype =>
    cases hmode : Mode.ofByte mode with
    | none =>
      cases (exec_initEnc_of_mode_none btype s hmode).symm.trans hexec
      exact inv_of_failedInit h (by simp)
    | some m =>
      cases hbtype : BlockType.ofByte btype with
      | none =>
        cases (exec_initEnc_of_blockType_none s hmode hbtype).symm.trans hexec
        exact inv_of_failedInit h (by simp)
      | some bt =>
        cases (exec_initEnc_of_good s hmode hbtype).symm.trans hexec
        exact inv_of_sessionStart h ..
  | initDec =>
    cases (exec_initDec s).symm.trans hexec
    exact inv_of_sessionStart h ..
  | process flush => exact exec_process_inv h hexec
  | finish =>
    refine sessionCommand_inv sessionCommand_finish h hexec fun hactive herr => ?_
    by_cases hcomplete : s.stage = .footer ∧ s.fin = true ∧ s.osb = []
    · cases (exec_finish_of_complete hactive herr hcomplete).symm.trans hexec
      exact inv_of_finish h hactive herr hcomplete.1 hcomplete.2.1 hcomplete.2.2
    · cases (exec_finish_of_incomplete hactive herr hcomplete).symm.trans hexec
      exact inv_of_error h (by simp)
  | reserved =>
    refine sessionCommand_inv sessionCommand_reserved h hexec fun hactive herr => ?_
    cases (exec_reserved_of_live hactive herr).symm.trans hexec
    exact inv_of_error h (by simp)
  | _ => cases hcommand

theorem hostAccess_inv {a : HostAccess} (h : s.Inv) (hnext : hostAccess a s = .next t) : t.Inv := by
  cases a with
  | regWrite width addr v =>
    simp only [hostAccess] at hnext
    split at hnext
    · cases hnext
    · split at hnext
      · exact exec_command_inv (decodeCommand_isCommand v).2 h hnext
      · cases hnext
        have hstate := writeRegister_state s (s.windowOffset addr) v
        refine inv_of_host_update h ?_ ?_
        · rw [hstate]; exact h.memWf
        · conv_lhs => rw [hstate]
          rw [hstate]
  | regRead width addr =>
    simp only [hostAccess] at hnext
    split at hnext
    · cases hnext
    · cases hnext
      exact inv_of_host_update h h.memWf rfl
  | memWrite addr v =>
    simp only [hostAccess] at hnext
    split at hnext
    · cases hnext
      exact inv_of_host_update h (writeByte_memWf s addr v h.memWf) rfl
    · cases hnext
  | memRead addr =>
    simp only [hostAccess] at hnext
    split at hnext
    · cases hnext
      exact inv_of_host_update h h.memWf rfl
    · cases hnext
  | hardwareReset =>
    cases hnext
    exact inv_of_hardwareReset h

/-- Settles O58, access by access; a PROCESS that enters its loop by an induction over its micro-steps. -/
theorem everyStepKeepsTheInvariant : Obligations.EveryStepKeepsTheInvariant := by
  unfold Obligations.EveryStepKeepsTheInvariant
  intro s t h hnext
  cases hhost : s.host with
  | nil =>
    simp only [step, hhost] at hnext
    cases hnext
    exact h
  | cons a rest =>
    simp only [step, hhost] at hnext
    have hrest : State.Inv { s with host := rest } := inv_of_host_update h h.memWf rfl
    exact hostAccess_inv hrest hnext

/-! ## The resumption points (R404, R436) -/

/-- The errors of a point that has a rule. -/
def RuledError (t : State) : Prop := t.err = .malformedHeader ∨ t.err = .unsupportedMode ∨ t.err = .truncatedStream

theorem shortRead_ruledError (ctx : Context) (s : State) : RuledError (raiseError (shortReadCode ctx) s) := by
  unfold RuledError shortReadCode
  split <;> simp

theorem microStep_ruledError (flush : Bool) (hruled : ¬Unruled s) (herr : s.err = .none) :
    (microStep flush s).Meets (fun _ => True) (fun _ => True) RuledError := by
  cases hrole : s.role with
  | encode =>
    refine microStep_encode_meets hrole ?header ?prepare ?full ?next ?chunk ?copy ?footer fun hu => absurd hu hruled
    case chunk => exact fun _ _ _ => encReadChunk_meets (fun _ _ _ => trivial) fun _ _ => ⟨fun _ => trivial, fun _ => trivial⟩
    case copy =>
      exact fun _ _ _ => encCopyBytes_meets (fun _ => trivial) (fun _ _ _ _ => trivial) fun _ _ _ =>
        ⟨fun _ => trivial, fun _ => trivial⟩
    all_goals intros; trivial
  | decode =>
    refine microStep_decode_meets hrole ?token ?lastChunk ?noTail ?copy fun hu => absurd hu hruled
    case copy =>
      exact fun _ _ _ => decCopyBytes_meets (fun _ => trivial) (fun _ _ _ _ => trivial) fun _ _ _ =>
        ⟨fun _ => trivial, fun _ => .inr (.inr rfl)⟩
    case token =>
      intro ctx hpoint
      refine fetchToken_meets hpoint.ne_command (fun _ _ _ _ _ => trivial) (fun bytes t hread _ => ?run)
        fun t _ => ⟨fun _ => trivial, fun _ => shortRead_ruledError ctx t⟩
      case run =>
        obtain ⟨-, -, rfl⟩ := readUnit_eq_ok hread
        refine tokenRun_meets hpoint herr ?raise ?_ ?_ ?_ ?_ ?_ ?_ ?_
        case raise =>
          rintro code (rfl | rfl)
          · exact ⟨.inl rfl, .inl rfl⟩
          · exact ⟨.inr (.inl rfl), .inr (.inl rfl)⟩
        all_goals simp
    all_goals intros; trivial

/-- Settles O59: in a state that meets the invariant the point has a rule, and no rule raises INVALID_STATE_TRANSITION. -/
theorem unassignedPointsAreUnreachable : Obligations.UnassignedPointsAreUnreachable := by
  unfold Obligations.UnassignedPointsAreUnreachable
  rintro flush s t h ⟨hactive, herr, hstage, -⟩ - - hraised
  have hruled : ¬Unruled s := fun hu => hu.elim hstage fun hpoint => hpoint (h.session hactive).point
  have hmeets := microStep_ruledError flush hruled herr
  rwa [hraised] at hmeets

end Sys2Proof.Proofs.Invariant
end

section
/-!
PROOFS. Micro-steps and the views' ends (R204, R403, R410: "each micro-step is a function of the session state and of the
next stream bytes, never of where a view ends"): two states that differ in where their views end, in dead scratch bytes
and in RESULT take micro-steps that end alike, whenever the read that is due answers alike.
-/

namespace Sys2Proof.Proofs.ViewEnds

open Sys2Proof.Machine Sys2Proof.Proofs.MicroStep Sys2Proof.Proofs.ProcessFrame Sys2Proof.Proofs.ProcessEnd
open Sys2Proof.Proofs.Tokens Sys2Proof.Proofs.EncoderBlocks Sys2Proof.Proofs.Invariant Sys2Proof.Proofs.Views

variable {s t u w : State} {flush : Bool} {strict : Prop} {n : Nat}

/-! ## States that differ in where their views end -/

/-- What no micro-step but a read looks at: where the views end, the scratch, and RESULT. -/
structure Port where
  inCap : Word
  outCap : Word
  scr : Scratch
  result : Result

def withPort (p : Port) (s : State) : State :=
  { s with inCap := p.inCap, outCap := p.outCap, scr := p.scr, result := p.result }

/-- The scratches hold the same `k` staged bytes; and, where the claim is strict, the same dead ones. -/
def SameBridge (strict : Prop) (k : Nat) (c d : Scratch) : Prop := c.bytes.take k = d.bytes.take k ∧ (strict → c = d)

/-- The same state, but for where its views end, its dead scratch bytes (not where the claim is strict) and RESULT. -/
def Cut (strict : Prop) (s t : State) : Prop := ∃ p, t = withPort p s ∧ SameBridge strict s.k s.scr p.scr

theorem SameBridge.empty {c d : Scratch} {k : Nat} (h : SameBridge strict k c d) : SameBridge strict 0 c d := ⟨rfl, h.2⟩

/-- A byte staged in both. An index beyond the scratch stores nothing. -/
theorem SameBridge.put {c d : Scratch} {k : Nat} (h : SameBridge strict k c d) (v : Byte) :
    SameBridge strict (k + 1) (c.put k v) (d.put k v) := by
  refine ⟨?_, fun hstrict => by rw [h.2 hstrict]⟩
  by_cases hk : k < 4
  · rw [scratch_put_take c k v hk, scratch_put_take d k v hk, h.1]
  · have hput : ∀ e : Scratch, (e.put k v).bytes.take (k + 1) = e.bytes.take k := fun e => by
      obtain ⟨j, rfl⟩ : ∃ j, k = j + 4 := ⟨k - 4, by omega⟩
      rw [List.take_of_length_le (by rw [scratch_bytes_length]; omega),
        List.take_of_length_le (by rw [scratch_bytes_length]; omega)]
      rfl
    rw [hput, hput, h.1]

theorem Cut.of_port (p : Port) (s : State) (hscr : p.scr = s.scr) : Cut strict s (withPort p s) :=
  ⟨p, rfl, by rw [hscr], fun _ => hscr.symm⟩

theorem Cut.trans (h₁ : Cut strict s t) (h₂ : Cut strict t u) : Cut strict s u := by
  obtain ⟨p, rfl, hbridge, hscr⟩ := h₁
  obtain ⟨q, rfl, hbridge', hscr'⟩ := h₂
  exact ⟨q, rfl, hbridge.trans hbridge', fun hstrict => (hscr hstrict).trans (hscr' hstrict)⟩

/-! ## Drain -/

theorem drainBytes_withPort (bytes : List Byte) {p : Port} (hcap : p.outCap = s.outCap) :
    drainBytes bytes (withPort p s) = withPort p (drainBytes bytes s) := by
  induction bytes generalizing s with
  | nil => rfl
  | cons b rest ih =>
    have havail : (withPort p s).outAvail = s.outAvail := by simp only [State.outAvail, withPort, hcap]
    rw [drainBytes, drainBytes, havail]
    split
    · rfl
    · exact ih (s := outByte b s) hcap

theorem drain_kept (s : State) :
    (drain s).k = s.k ∧ (drain s).scr = s.scr ∧ (drain s).inCap = s.inCap ∧ (drain s).outCap = s.outCap := by
  obtain ⟨mem, hstate, -, -⟩ := drain_state s
  rw [hstate]
  exact ⟨rfl, rfl, rfl, rfl⟩

theorem Cut.drain (h : Cut strict s t) (hcap : t.outCap = s.outCap) : Cut strict (drain s) (drain t) := by
  obtain ⟨p, rfl, hbridge⟩ := h
  obtain ⟨hk, hscr, -, -⟩ := drain_kept s
  exact ⟨p, drainBytes_withPort s.osb hcap, by rwa [hk, hscr]⟩

theorem drainBytes_osb (bytes staged : List Byte) (s : State) :
    drainBytes bytes { s with osb := staged } = drainBytes bytes s := by
  induction bytes generalizing s with
  | nil => rfl
  | cons b rest ih =>
    rw [drainBytes, drainBytes]
    split
    · next h => exact (if_pos h).symm
    · next h => exact (ih (outByte b s)).trans (if_neg h).symm

/-- Draining into a cut output view and then into the whole one is draining into the whole one. -/
theorem drainBytes_recap (bytes : List Byte) {cap : Word} (hcap : s.outCap.toNat ≤ cap.toNat) :
    drain { drainBytes bytes s with outCap := cap } = drainBytes bytes { s with outCap := cap } := by
  induction bytes generalizing s with
  | nil => rfl
  | cons b rest ih =>
    by_cases hfull : s.outAvail = 0
    · rw [drainBytes, if_pos hfull]
      exact drainBytes_osb (b :: rest) (b :: rest) { s with outCap := cap }
    · have hroom : State.outAvail { s with outCap := cap } ≠ 0 := by
        simp only [State.outAvail, avail] at hfull ⊢
        omega
      rw [drainBytes, if_neg hfull, drainBytes, if_neg hroom]
      exact ih (s := outByte b s) hcap

theorem drain_recap {cap : Word} (hcap : s.outCap.toNat ≤ cap.toNat) :
    drain { drain s with outCap := cap } = drain { s with outCap := cap } :=
  drainBytes_recap s.osb hcap

theorem drain_drain (s : State) : drain (drain s) = drain s := by
  have hcap : { drain s with outCap := s.outCap } = drain s := by
    obtain ⟨mem, hstate, -, -⟩ := drain_state s
    rw [hstate]
  have := drain_recap (s := s) (cap := s.outCap) le_rfl
  rwa [hcap] at this

/-! ## Reads -/

/-- The read of `n` bytes answers alike in both states: the same bytes or none, and the states cut apart no further. -/
def ReadsAlike (strict : Prop) (n : Nat) (s t : State) : Prop :=
  (∀ bytes u, readUnit n s = .ok bytes u → ∃ v, readUnit n t = .ok bytes v ∧ Cut strict u v) ∧
  ∀ u, readUnit n s = .insufficient u → ∃ v, readUnit n t = .insufficient v ∧ Cut strict u v

theorem ReadsAlike.trans (h₁ : ReadsAlike strict n s t) (h₂ : ReadsAlike strict n t u) : ReadsAlike strict n s u := by
  refine ⟨fun bytes x hread => ?_, fun x hread => ?_⟩
  · obtain ⟨y, hready, hxy⟩ := h₁.1 bytes x hread
    obtain ⟨z, hreadz, hyz⟩ := h₂.1 bytes y hready
    exact ⟨z, hreadz, hxy.trans hyz⟩
  · obtain ⟨y, hready, hxy⟩ := h₁.2 x hread
    obtain ⟨z, hreadz, hyz⟩ := h₂.2 y hready
    exact ⟨z, hreadz, hxy.trans hyz⟩

/-- A read that a view can answer, a longer one answers with the same bytes. -/
theorem Cut.readUnit_ok (h : Cut strict s t) (hle : s.inAvail ≤ t.inAvail) {bytes : List Byte}
    (hread : readUnit n s = .ok bytes u) : ∃ v, readUnit n t = .ok bytes v ∧ Cut strict u v := by
  obtain ⟨p, rfl, hbridge⟩ := h
  obtain ⟨hn, rfl, rfl⟩ := readUnit_eq_ok hread
  have hbytes : (takeBytes (n - s.k) (withPort p s)).1 = (takeBytes (n - s.k) s).1 := by
    rw [takeBytes_bytes, takeBytes_bytes]
    rfl
  refine ⟨_, ?_, p, rfl, hbridge.empty⟩
  rw [Machine.readUnit_ok (hn.trans (Nat.add_le_add_left hle _)), hbridge.1, ← hbytes]
  rfl

theorem Cut.stageBytes (count : Nat) (h : Cut strict s t) : Cut strict (stageBytes count s) (stageBytes count t) := by
  induction count generalizing s t with
  | zero => exact h
  | succ count ih =>
    refine ih ?_
    obtain ⟨p, rfl, hbridge⟩ := h
    exact ⟨{ p with scr := p.scr.put s.k (s.readByte (viewAddr s.inBase s.inPos)) }, rfl, hbridge.put _⟩

theorem Cut.readsAlike (h : Cut strict s t) (hcap : t.inCap = s.inCap) : ReadsAlike strict n s t := by
  have havail : t.inAvail = s.inAvail := by
    obtain ⟨p, rfl, -⟩ := h
    simp only [State.inAvail, hcap]
    rfl
  refine ⟨fun bytes u hread => h.readUnit_ok havail.ge hread, fun u hread => ?_⟩
  obtain ⟨hshort, rfl, -⟩ := readUnit_eq_insufficient hread
  have hk : t.k = s.k := by obtain ⟨p, rfl, -⟩ := h; rfl
  exact ⟨_, readUnit_insufficient (by rwa [hk, havail]), by rw [havail]; exact h.stageBytes _⟩

theorem stageBytes_add (a b : Nat) (s : State) : stageBytes (a + b) s = stageBytes b (stageBytes a s) := by
  induction a generalizing s with
  | zero => rw [Nat.zero_add]; rfl
  | succ a ih => rw [Nat.succ_add]; exact ih (stageByte s)

theorem takeBytes_append (a b : Nat) (s : State) :
    (takeBytes a s).1 ++ (takeBytes b (stageBytes a s)).1 = (takeBytes (a + b) s).1 := by
  obtain ⟨scr, hstate⟩ := stageBytes_state a s
  rw [hstate, takeBytes_bytes, takeBytes_bytes, takeBytes_bytes, List.range_add, List.map_append, List.map_map]
  congr 1
  refine List.map_congr_left fun i _ => ?_
  show sparseGet s.mem _ = sparseGet s.mem _
  simp only [BitVec.add_assoc, BitVec.ofNat_add]

/-- R204, R240: with the first bytes of a read already staged, the read answers as it does from the view alone. -/
theorem readsAlike_of_staged {a : Nat} (ha : a ≤ s.inAvail) (hn : n ≤ 4) (hlt : s.k + a < n) :
    ReadsAlike False n (stageBytes a s) s := by
  obtain ⟨scr, hstate⟩ := stageBytes_state a s
  have hk : (stageBytes a s).k = s.k + a := by rw [hstate]
  have havail : (stageBytes a s).inAvail = s.inAvail - a :=
    inAvail_of_inPos (by rw [hstate]) (by rw [hstate]) ha
  refine ⟨fun bytes u hread => ?_, fun u hread => ?_⟩
  · obtain ⟨henough, rfl, rfl⟩ := readUnit_eq_ok hread
    rw [hk, havail] at henough
    have hstaged := stageBytes_staged a s (by omega)
    have hsum : n - s.k = a + (n - (s.k + a)) := by omega
    refine ⟨_, ?_, ⟨s.inCap, s.outCap, s.scr, s.result⟩, rfl, rfl, False.elim⟩
    rw [Machine.readUnit_ok (by omega), hk, hstaged, List.append_assoc, takeBytes_append, ← hsum]
    congr 1
    rw [hstate, hsum]
    simp [withPort, BitVec.add_assoc, BitVec.ofNat_add]
  · obtain ⟨hshort, rfl, -⟩ := readUnit_eq_insufficient hread
    rw [hk, havail] at hshort
    refine ⟨_, readUnit_insufficient (by omega), ?_⟩
    rw [havail, ← stageBytes_add, Nat.add_sub_cancel' ha]
    exact .of_port ⟨_, _, _, _⟩ _ rfl

/-! ## The micro-step -/

/-- The two stand at one resumption point of one session; their views, their bridges and TOTAL_READ may differ. -/
def SamePoint (s t : State) : Prop :=
  ∃ p inPos k totalRead, t = { withPort p s with inPos := inPos, k := k, totalRead := totalRead }

theorem Cut.samePoint (h : Cut strict s t) : SamePoint s t := by
  obtain ⟨p, rfl, -⟩ := h
  exact ⟨p, s.inPos, s.k, s.totalRead, rfl⟩

theorem encodeChunk_cut (bytes : List Byte) (h : Cut strict s t) : Cut strict (encodeChunk bytes s) (encodeChunk bytes t) := by
  obtain ⟨p, rfl, hbridge⟩ := h
  by_cases hhit : s.entry (chunkHash (chunkOf bytes)) = chunkOf bytes
  · rw [encodeChunk_of_hit bytes s hhit, encodeChunk_of_hit bytes (withPort p s) hhit]
    exact ⟨p, rfl, hbridge⟩
  · rw [encodeChunk_of_miss bytes s hhit, encodeChunk_of_miss bytes (withPort p s) hhit]
    exact ⟨p, rfl, hbridge⟩

theorem closeBlock_cut (final : Bool) (h : Cut strict s t) : Cut strict (closeBlock final s) (closeBlock final t) := by
  obtain ⟨p, rfl, hbridge⟩ := h
  cases final <;> exact ⟨p, rfl, hbridge⟩

theorem encodeTail_cut (h : Cut strict s t) : Cut strict (encodeTail s) (encodeTail t) := by
  obtain ⟨p, rfl, hbridge⟩ := h
  rw [encodeTail_eq, encodeTail_eq]
  refine closeBlock_cut true ⟨p, ?_, hbridge.empty⟩
  show _ = { withPort p s with
    k := 0, body := s.body ++ s.scr.bytes.take s.k, blen := s.blen + (s.scr.bytes.take s.k).length }
  rw [hbridge.1]
  rfl

theorem raiseError_cut (code : ErrCode) (h : Cut strict s t) : Cut strict (raiseError code s) (raiseError code t) := by
  obtain ⟨p, rfl, hbridge⟩ := h
  exact ⟨{ p with result := .error }, rfl, hbridge⟩

/-- The two outcomes are the same end of a command's meaning, in states cut apart no further. -/
def OutcomeCut (strict : Prop) (o o' : Host.Outcome State Fault Refusal) : Prop :=
  ∃ u v, o = .next u ∧ o' = .next v ∧ Cut strict u v

theorem OutcomeCut.next (h : Cut strict s t) : OutcomeCut strict (.next s) (.next t) := ⟨s, t, rfl, rfl, h⟩

theorem OutcomeCut.raise (code : ErrCode) (h : Cut strict s t) :
    OutcomeCut strict (.next (raiseError code s)) (.next (raiseError code t)) := .next (raiseError_cut code h)

theorem OutcomeCut.ite {c : Prop} [Decidable c] {o₁ o₂ o₁' o₂' : Host.Outcome State Fault Refusal}
    (h₁ : OutcomeCut strict o₁ o₁') (h₂ : OutcomeCut strict o₂ o₂') :
    OutcomeCut strict (if c then o₁ else o₂) (if c then o₁' else o₂') := by
  split
  · exact h₁
  · exact h₂

/-- A token's meaning does not see where the views end. -/
theorem exec_token_cut {i : Instr} (hi : i.isCommand = false) (h : Cut strict s t) :
    OutcomeCut strict (exec i s) (exec i t) := by
  obtain ⟨p, rfl, hbridge⟩ := h
  cases i with
  | streamHeader version mode btype rsvd =>
    have hacc : Cut strict { s with acc := [] } { withPort p s with acc := [] } := ⟨p, rfl, hbridge⟩
    simp only [exec, execStreamHeader]
    refine .ite (.raise _ hacc) ?_
    cases Mode.ofByte mode with
    | none => exact .raise _ hacc
    | some m =>
      cases BlockType.ofByte btype with
      | none => exact .raise _ hacc
      | some bt => exact .ite (.raise _ hacc) (.next ⟨p, rfl, hbridge⟩)
  | blockHeader len final rsvd =>
    simp only [exec, execBlockHeader]
    refine .ite (.raise _ ⟨p, rfl, hbridge⟩) ?_
    have hmode : (withPort p s).mode = s.mode := rfl
    rw [hmode]
    cases s.mode <;> exact .next ⟨p, rfl, hbridge⟩
  | signatureW32 flags => exact .next ⟨p, rfl, hbridge⟩
  | signatureW64 flags => exact .next ⟨p, rfl, hbridge⟩
  | reference h => exact .next ⟨p, rfl, hbridge⟩
  | literal chunk => exact .next ⟨p, rfl, hbridge⟩
  | tail bytes => exact .next ⟨p, rfl, hbridge⟩
  | blockTrailer count =>
    exact .ite (.raise _ ⟨p, rfl, hbridge⟩) (.ite (.next ⟨p, rfl, hbridge⟩) (.next ⟨p, rfl, hbridge⟩))
  | streamFooter origLen encLen =>
    exact .ite (.raise _ ⟨p, rfl, hbridge⟩) (.next ⟨p, rfl, hbridge⟩)
  | _ => cases hi

/-- The micro-step at this point reads nothing: its rule has no read, it has no rule, or a COPY encoder's block is full. -/
def Quiet (s : State) : Prop :=
  s.nextRead = 0 ∨ Unruled s ∨
    (s.role = .encode ∧ s.stage = .blocks ∧ s.mode = .copy ∧ s.ks = .copyBytes ∧ s.blen = s.blockBytes)

/-- A stall is a short read. -/
theorem not_quiet_of_stall (hshort : readUnit s.nextRead s = .insufficient u) (hstall : microStep flush s = .stallInput t) :
    ¬Quiet s := by
  rintro (hnext | hu | ⟨hrole, hstage, hmode, hks, hfull⟩)
  · obtain ⟨hlt, -⟩ := readUnit_eq_insufficient hshort
    omega
  · rw [microStep_of_unruled hu] at hstall
    cases hstall
  · rw [microStep_encCopyBytes hrole hstage hmode hks, encCopyBytes, if_pos hfull] at hstall
    cases hstall

/-- The other state's micro-step goes on, or raises, as this one's does. -/
def ContAlike (strict : Prop) (o : MicroOutcome) (u : State) : Prop := ∃ v, o = .cont v ∧ Cut strict u v
def RaisedAlike (strict : Prop) (o : MicroOutcome) (u : State) : Prop := ∃ v, o = .raised v ∧ Cut strict u v

theorem afterToken_alike {o o' : Host.Outcome State Fault Refusal} {Q : State → Prop} (h : OutcomeCut strict o o') :
    (afterToken o).Meets (ContAlike strict (afterToken o')) Q (RaisedAlike strict (afterToken o')) := by
  obtain ⟨u, v, rfl, rfl, p, rfl, hbridge⟩ := h
  rw [afterToken_next_meets]
  split
  · next h => exact ⟨_, if_pos h, p, rfl, hbridge⟩
  · next h => exact ⟨_, if_neg h, p, rfl, hbridge⟩

/-- This state's micro-step stalls at the read that is due; the other's does where that read is short there too. -/
def StallsAt (fs ft : Bool) (s t u : State) : Prop :=
  fs = false ∧ readUnit s.nextRead s = .insufficient u ∧
    ∀ v, ft = false → readUnit s.nextRead t = .insufficient v → microStep ft t = .stallInput v

section
variable {fs ft : Bool}

/-- What two states at one point must share for their micro-steps to end alike: all but the port where nothing is read,
and the answer of the read that is due. A short read without flush asks nothing of the other state. -/
structure Reads (strict : Prop) (fs ft : Bool) (s t : State) : Prop where
  point : SamePoint s t
  still : Quiet s → Cut strict s t
  ok : ∀ bytes u, readUnit s.nextRead s = .ok bytes u → ∃ v, readUnit s.nextRead t = .ok bytes v ∧ Cut strict u v
  short : ∀ u, readUnit s.nextRead s = .insufficient u → fs = true →
    ft = true ∧ ∃ v, readUnit s.nextRead t = .insufficient v ∧ Cut strict u v

theorem stallsAt_of (hfs : fs = false) (hnext : s.nextRead = n) (hread : readUnit n s = .insufficient u)
    (hstall : ∀ v, ft = false → readUnit n t = .insufficient v → microStep ft t = .stallInput v) :
    StallsAt fs ft s t u := by
  subst hnext
  exact ⟨hfs, hread, hstall⟩

theorem microStep_encode_alike (h : Reads strict fs ft s t) (hrole : s.role = .encode) :
    (microStep fs s).Meets (ContAlike strict (microStep ft t)) (StallsAt fs ft s t) (RaisedAlike strict (microStep ft t)) := by
  obtain ⟨hpoint, hstill, hok, hshort⟩ := h
  refine microStep_encode_meets hrole ?header ?prepare ?full ?next ?chunk ?copy ?footer ?unruled
  case header =>
    intro hstage
    obtain ⟨p, rfl, hbridge⟩ := hstill (.inl (by simp [State.nextRead, hrole, hstage]))
    exact ⟨_, microStep_writeHeader (s := withPort p s) hrole hstage, p, rfl, hbridge⟩
  case footer =>
    intro hstage
    obtain ⟨p, rfl, hbridge⟩ := hstill (.inl (by simp [State.nextRead, hrole, hstage]))
    exact ⟨_, microStep_writeFooter (s := withPort p s) hrole hstage, p, rfl, hbridge⟩
  case prepare =>
    intro hstage hks
    obtain ⟨p, rfl, hbridge⟩ := hstill (.inl (by simp [State.nextRead, hrole, hstage, hks]))
    exact ⟨_, microStep_encPrepare (s := withPort p s) hrole hstage hks, p, rfl, hbridge⟩
  case full =>
    intro hstage hmode hks hfull
    obtain ⟨p, rfl, hbridge⟩ := hstill (.inl (by simp [State.nextRead, hrole, hstage, hks]))
    exact ⟨_, (microStep_encCheckSig (s := withPort p s) hrole hstage hmode hks).trans (if_pos hfull),
      closeBlock_cut false ⟨p, rfl, hbridge⟩⟩
  case next =>
    intro hstage hmode hks hroom
    obtain ⟨p, rfl, hbridge⟩ := hstill (.inl (by simp [State.nextRead, hrole, hstage, hks]))
    exact ⟨_, (microStep_encCheckSig (s := withPort p s) hrole hstage hmode hks).trans (if_neg hroom), p, rfl, hbridge⟩
  case unruled =>
    intro hu
    obtain ⟨p, rfl, hbridge⟩ := hstill (.inr (.inl hu))
    exact ⟨_, microStep_of_unruled (s := withPort p s) hu, raiseError_cut _ ⟨p, rfl, hbridge⟩⟩
  case chunk =>
    intro hstage hmode hks
    have hstep : microStep ft t = encReadChunk ft t := by
      obtain ⟨p, inPos, k, totalRead, rfl⟩ := hpoint
      exact microStep_encReadChunk hrole hstage hmode hks
    have hnext : s.nextRead = 4 := by simp [State.nextRead, hrole, hstage, hks, hmode]
    rw [hnext] at hok hshort
    refine encReadChunk_meets (fun bytes u hread => ?_) fun u hread => ⟨fun hfs => ?_, fun hfs => ?_⟩
    · obtain ⟨v, hreadt, hcut⟩ := hok bytes u hread
      exact ⟨_, by rw [hstep, encReadChunk, hreadt], encodeChunk_cut bytes hcut⟩
    · exact stallsAt_of hfs hnext hread fun v hft hreadt => by
        rw [hstep, encReadChunk, hreadt, hft]
        rfl
    · obtain ⟨hft, v, hreadt, hcut⟩ := hshort u hread hfs
      exact ⟨_, by rw [hstep, encReadChunk, hreadt, hft]; rfl, encodeTail_cut hcut⟩
  case copy =>
    intro hstage hmode hks
    obtain ⟨hstep, hblen⟩ : microStep ft t = encCopyBytes ft t ∧ (t.blen = t.blockBytes ↔ s.blen = s.blockBytes) := by
      obtain ⟨p, inPos, k, totalRead, rfl⟩ := hpoint
      exact ⟨microStep_encCopyBytes hrole hstage hmode hks, Iff.rfl⟩
    have hnext : s.nextRead = 1 := by simp [State.nextRead, hrole, hstage, hks, hmode]
    rw [hnext] at hok hshort
    refine encCopyBytes_meets (fun hfull => ?_) (fun bytes u hroom hread => ?_)
      fun u hroom hread => ⟨fun hfs => ?_, fun hfs => ?_⟩
    · have hcut := hstill (.inr (.inr ⟨hrole, hstage, hmode, hks, hfull⟩))
      exact ⟨_, by rw [hstep, encCopyBytes, if_pos (hblen.mpr hfull)], closeBlock_cut false hcut⟩
    all_goals
      rw [encCopyBytes, if_neg (hblen.not.mpr hroom)] at hstep
    · obtain ⟨v, hreadt, p, rfl, hbridge⟩ := hok bytes u hread
      refine ⟨_, ?_, p, rfl, hbridge⟩
      rw [hstep, hreadt]
      rfl
    · exact stallsAt_of hfs hnext hread fun v hft hreadt => by
        rw [hstep, hreadt, hft]
        rfl
    · obtain ⟨hft, v, hreadt, hcut⟩ := hshort u hread hfs
      exact ⟨_, by rw [hstep, hreadt, hft]; rfl, closeBlock_cut true hcut⟩

theorem microStep_decode_alike (h : Reads strict fs ft s t) (hrole : s.role = .decode) (hfin : s.fin = false) :
    (microStep fs s).Meets (ContAlike strict (microStep ft t)) (StallsAt fs ft s t) (RaisedAlike strict (microStep ft t)) := by
  obtain ⟨hpoint, hstill, hok, hshort⟩ := h
  refine microStep_decode_meets hrole ?token ?lastChunk ?noTail ?copy ?unruled
  case unruled =>
    intro hu
    obtain ⟨p, rfl, hbridge⟩ := hstill (.inr (.inl hu))
    exact ⟨_, microStep_of_unruled (s := withPort p s) hu, raiseError_cut _ ⟨p, rfl, hbridge⟩⟩
  case lastChunk =>
    intro hstage hmode hks hlast
    obtain ⟨p, rfl, hbridge⟩ := hstill (.inl (by simp [State.nextRead, hrole, hstage, hks, hlast]))
    exact ⟨_, (microStepRunsDecodedToken.2 ft (withPort p s) hrole hstage hmode).1 hks hlast, p, rfl, hbridge⟩
  case noTail =>
    intro hstage hmode hks ht
    obtain ⟨p, rfl, hbridge⟩ := hstill (.inl (by simp [State.nextRead, hrole, hstage, hks, ht]))
    exact ⟨_, (microStepRunsDecodedToken.2 ft (withPort p s) hrole hstage hmode).2 hks ht, p, rfl, hbridge⟩
  case token =>
    intro ctx htoken
    have hctx := htoken.ne_command
    have hnext := nextRead_of_tokenPoint hrole hfin htoken
    have hstep : microStep ft t = fetchToken ctx ft t := by
      have hdue : s.tokenDue = some ctx := tokenDue_iff.mpr ⟨hrole, htoken⟩
      obtain ⟨p, inPos, k, totalRead, rfl⟩ := hpoint
      exact microStep_of_tokenDue hdue
    rw [fetchToken_eq_dread hctx, dread] at hstep
    rw [hnext] at hok hshort
    refine fetchToken_meets hctx (fun unit u hread hlong hlt => ?part) (fun unit u hread hwhole => ?run)
      fun u hread => ⟨fun hfs => ?stall, fun hfs => ?short⟩
    case part =>
      obtain ⟨v, hreadt, p, rfl, hbridge⟩ := hok unit u hread
      refine ⟨_, ?_, p, rfl, hbridge⟩
      rw [hstep, hreadt]
      exact if_pos ⟨hlong, hlt⟩
    case run =>
      obtain ⟨v, hreadt, hcut⟩ := hok unit u hread
      have hacc : v.acc = u.acc := by obtain ⟨p, rfl, -⟩ := hcut; rfl
      have hlong : ¬(ctx.isGathered = true ∧ (v.acc ++ unit).length < ctx.length) := fun ⟨hgathered, hlt⟩ => by
        have := hwhole hgathered
        rw [hacc] at hlt
        omega
      have hrun : microStep ft t = afterToken (exec (decodeExact ctx (ctx.tokenBytes u unit)) v) := by
        rw [hstep, hreadt, Context.tokenBytes, ← hacc]
        exact if_neg hlong
      rw [hrun]
      exact afterToken_alike (exec_token_cut (decodeExact_stream_isToken ctx _ hctx) hcut)
    case stall =>
      exact stallsAt_of hfs hnext hread fun v hft hreadt => by
        rw [hstep, hreadt, hft]
        rfl
    case short =>
      obtain ⟨hft, v, hreadt, hcut⟩ := hshort u hread hfs
      exact ⟨_, by rw [hstep, hreadt, hft]; rfl, raiseError_cut _ hcut⟩
  case copy =>
    intro hstage hmode hks
    obtain ⟨hstep, hcrem⟩ : microStep ft t = decCopyBytes ft t ∧ (t.crem = 0 ↔ s.crem = 0) := by
      obtain ⟨p, inPos, k, totalRead, rfl⟩ := hpoint
      refine ⟨?_, Iff.rfl⟩
      simp only [microStep, withPort, hstage, hrole, decBlockStep, hks, hmode]
    refine decCopyBytes_meets (fun hdone => ?_) (fun bytes u hmore hread => ?_)
      fun u hmore hread => ⟨fun hfs => ?_, fun hfs => ?_⟩
    · obtain ⟨p, rfl, hbridge⟩ := hstill (.inl (by simp [State.nextRead, hrole, hstage, hks, hdone]))
      exact ⟨_, hstep.trans (if_pos hdone), p, rfl, hbridge⟩
    all_goals
      have hnext : s.nextRead = 1 := by simp [State.nextRead, hrole, hstage, hks, hmore]
      rw [hnext] at hok hshort
      rw [decCopyBytes, if_neg (hcrem.not.mpr hmore), dread] at hstep
    · obtain ⟨v, hreadt, p, rfl, hbridge⟩ := hok bytes u hread
      refine ⟨_, ?_, p, rfl, hbridge⟩
      rw [hstep, hreadt]
      rfl
    · exact stallsAt_of hfs hnext hread fun v hft hreadt => by
        rw [hstep, hreadt, hft]
        rfl
    · obtain ⟨hft, v, hreadt, hcut⟩ := hshort u hread hfs
      exact ⟨_, by rw [hstep, hreadt, hft]; rfl, raiseError_cut _ hcut⟩

theorem microStep_alike (h : Reads strict fs ft s t) (hfin : s.fin = false) :
    (microStep fs s).Meets (ContAlike strict (microStep ft t)) (StallsAt fs ft s t) (RaisedAlike strict (microStep ft t)) := by
  cases hrole : s.role with
  | encode => exact microStep_encode_alike h hrole
  | decode => exact microStep_decode_alike h hrole hfin

end

end Sys2Proof.Proofs.ViewEnds
end

section
/-!
PROOFS. Fragmentation (R204, R240, R410): a PROCESS over a cut view that stalls at the cut, and a second one with the
whole view, end as one PROCESS with the whole view does.
-/

namespace Sys2Proof.Proofs.Fragments

open Sys2Proof.Machine Sys2Proof.Statements Sys2Proof.Proofs.HostCommands Sys2Proof.Proofs.Views
open Sys2Proof.Proofs.MicroStep Sys2Proof.Proofs.ProcessFrame Sys2Proof.Proofs.ProcessEnd Sys2Proof.Proofs.ProcessRuns
open Sys2Proof.Proofs.Invariant Sys2Proof.Proofs.ViewEnds

variable {s t u c w : State} {flush : Bool} {strict : Prop} {turns : Nat}

/-! ## Answers of the loop -/

/-- The loop answers `t`, given enough turns. -/
def Answers (flush : Bool) (s t : State) : Prop := ∃ turns, processLoop turns flush s = .next t

theorem answers_exists (flush : Bool) (s : State) : ∃ t, Answers flush s t := by
  obtain ⟨t, h⟩ := processLoop_answers_always flush s
  exact ⟨t, _, h⟩

theorem exec_process_of_answers (henters : entersLoop s) (h : Answers flush s t) :
    exec (.process flush) s = onBackedMemory s (.next t) := by
  obtain ⟨turns, hloop⟩ := h
  obtain ⟨u, hu⟩ := processLoop_answers_always flush s
  obtain rfl : t = u := Host.Outcome.next.inj ((processLoop_mono hloop (Nat.le_max_left turns _)).symm.trans
    (processLoop_mono hu (Nat.le_max_right turns _)))
  exact exec_process_of_loop henters le_rfl hu

/-- What the loop does with the end of its micro-step (R403). -/
def afterStep (turns : Nat) (flush : Bool) : MicroOutcome → Host.Outcome State Fault Refusal
  | .cont s => processLoop turns flush s
  | .stallInput s => .next { s with result := .stallIn }
  | .raised s => .next s
  | .stopped f => .fault f
  | .refused r => .refused r

theorem processLoop_succ (turns : Nat) (flush : Bool) (s : State) :
    processLoop (turns + 1) flush s =
      if (drain s).osb ≠ [] then .next { drain s with result := .stallOut }
      else if (drain s).fin then .next { drain s with result := .ready }
      else afterStep turns flush (microStep flush (drain s)) := by
  rw [processLoop]
  split
  · rfl
  · split
    · rfl
    · cases microStep flush (drain s) <;> rfl

theorem processLoop_of_open (hosb : s.osb = []) (hfin : s.fin = false) :
    processLoop (turns + 1) flush s = afterStep turns flush (microStep flush s) := by
  rw [processLoop_succ, drain_of_empty hosb, if_neg (by simp [hosb]), if_neg (by simp [hfin])]

theorem answers_drain : Answers flush (drain s) t ↔ Answers flush s t := by
  have hsucc : ∀ turns, processLoop (turns + 1) flush (drain s) = processLoop (turns + 1) flush s := fun turns => by
    rw [processLoop_succ, processLoop_succ, drain_drain]
  constructor
  · rintro ⟨turns, h⟩
    exact ⟨turns + 1, (hsucc turns).symm.trans (processLoop_mono h (Nat.le_succ _))⟩
  · rintro ⟨turns, h⟩
    exact ⟨turns + 1, (hsucc turns).trans (processLoop_mono h (Nat.le_succ _))⟩

/-- A healthy, unfinished session. -/
def Live (s : State) : Prop := s.err = .none ∧ s.stage ≠ .finished

theorem Live.drain (h : Live s) : Live (drain s) := by
  obtain ⟨herr, hstage⟩ := drain_err_stage s
  exact ⟨herr.trans h.1, hstage ▸ h.2⟩

/-- A session that goes on is live; one that stops on an error says so. -/
theorem microStep_live (flush : Bool) (h : Live s) :
    (microStep flush s).Meets Live (fun _ => True) fun t => t.result = .error :=
  meets_imp (microStep_progresses flush h.1 h.2) (fun h => ⟨h.1, h.2.2⟩) (fun _ => trivial) fun h => h.2.1

theorem answers_of_cont {m : State} (hosb : (drain s).osb = []) (hfin : (drain s).fin = false)
    (hstep : microStep flush (drain s) = .cont m) (h : Answers flush m t) : Answers flush s t := by
  obtain ⟨turns, hloop⟩ := h
  refine answers_drain.mp ⟨turns + 1, ?_⟩
  rw [processLoop_of_cont hosb hfin hstep, hloop]

/-! ## Runs over the same views -/

/-- The same state with the same views, but for dead scratch bytes and RESULT. -/
structure Twin (strict : Prop) (s t : State) : Prop where
  cut : Cut strict s t
  inCap : t.inCap = s.inCap
  outCap : t.outCap = s.outCap

/-- Twins whose RESULT is the same: all that two whole runs may differ in. -/
structure EndTwin (strict : Prop) (s t : State) : Prop extends Twin strict s t where
  result : t.result = s.result

theorem Twin.drain (h : Twin strict s t) : Twin strict (drain s) (drain t) := by
  obtain ⟨-, -, hin, hout⟩ := drain_kept s
  obtain ⟨-, -, hin', hout'⟩ := drain_kept t
  exact ⟨h.cut.drain h.outCap, (hin'.trans h.inCap).trans hin.symm, (hout'.trans h.outCap).trans hout.symm⟩

theorem EndTwin.eq (h : EndTwin True s t) : t = s := by
  obtain ⟨⟨⟨p, rfl, -, hscr⟩, hin, hout⟩, hresult⟩ := h
  obtain ⟨inCap, outCap, scr, result⟩ := p
  obtain rfl : s.inCap = inCap := hin.symm
  obtain rfl : s.outCap = outCap := hout.symm
  obtain rfl : s.result = result := hresult.symm
  obtain rfl : s.scr = scr := hscr trivial
  rfl

theorem cut_same (h : Cut strict s t) :
    t.err = s.err ∧ t.stage = s.stage ∧ t.osb = s.osb ∧ t.fin = s.fin := by
  obtain ⟨p, rfl, -⟩ := h
  exact ⟨rfl, rfl, rfl, rfl⟩

/-- The other state's micro-step stalls as this one's does. -/
def StallAlike (strict : Prop) (o : MicroOutcome) (u : State) : Prop := ∃ v, o = .stallInput v ∧ Cut strict u v

/-- The micro-steps of the two states end alike. -/
def Tracks (strict : Prop) (flush : Bool) (s t : State) : Prop :=
  (microStep flush s).Meets (ContAlike strict (microStep flush t)) (StallAlike strict (microStep flush t))
    (RaisedAlike strict (microStep flush t))

theorem tracks_of_reads (hpoint : SamePoint s t) (hstill : Quiet s → Cut strict s t)
    (hreads : ReadsAlike strict s.nextRead s t) (hfin : s.fin = false) : Tracks strict flush s t := by
  refine meets_imp (microStep_alike (fs := flush) (ft := flush)
    ⟨hpoint, hstill, hreads.1, fun u hread hflush => ⟨hflush, hreads.2 u hread⟩⟩ hfin) id (fun h => ?_) id
  obtain ⟨hflush, hread, hstall⟩ := h
  obtain ⟨v, hreadt, hcut⟩ := hreads.2 _ hread
  exact ⟨v, hstall v hflush hreadt, hcut⟩

theorem Twin.tracks (h : Twin strict s t) (hfin : s.fin = false) : Tracks strict flush s t :=
  tracks_of_reads h.cut.samePoint (fun _ => h.cut) (h.cut.readsAlike h.inCap) hfin

/-- The loop goes on alike after micro-steps that end alike. -/
theorem afterStep_twin (htracks : Tracks strict flush s t) (hin : t.inCap = s.inCap) (hout : t.outCap = s.outCap)
    (hlive : Live s) (hlive' : Live t)
    (hnext : ∀ m m', Twin strict m m' → Live m → processLoop turns flush m = .next u →
      ∃ v, processLoop turns flush m' = .next v ∧ EndTwin strict u v)
    (h : afterStep turns flush (microStep flush s) = .next u) :
    ∃ v, afterStep turns flush (microStep flush t) = .next v ∧ EndTwin strict u v := by
  have hframe := meets_and (microStep_frame flush s) (microStep_live flush hlive)
  have hframe' := meets_and (microStep_frame flush t) (microStep_live flush hlive')
  have htwin : ∀ {m m'}, Frame s m → Frame t m' → Cut strict m m' → Twin strict m m' := fun hm hm' hcut =>
    ⟨hcut, (hm'.host.inCap.trans hin).trans hm.host.inCap.symm, (hm'.host.outCap.trans hout).trans hm.host.outCap.symm⟩
  unfold Tracks at htracks
  cases hstep : microStep flush s with
  | cont m =>
    rw [hstep] at htracks hframe h
    obtain ⟨m', hstep', hcut⟩ := htracks
    rw [hstep'] at hframe' ⊢
    exact hnext m m' (htwin hframe.1 hframe'.1 hcut) hframe.2 h
  | stallInput m =>
    rw [hstep] at htracks hframe h
    obtain ⟨m', hstep', p, rfl, hbridge⟩ := htracks
    rw [hstep'] at hframe' ⊢
    cases h
    obtain ⟨-, hin, hout⟩ := htwin hframe.1 hframe'.1 ⟨p, rfl, hbridge⟩
    exact ⟨_, rfl, ⟨⟨{ p with result := .stallIn }, rfl, hbridge⟩, hin, hout⟩, rfl⟩
  | raised m =>
    rw [hstep] at htracks hframe h
    obtain ⟨m', hstep', hcut⟩ := htracks
    rw [hstep'] at hframe' ⊢
    cases h
    exact ⟨m', rfl, htwin hframe.1 hframe'.1 hcut, hframe'.2.trans hframe.2.symm⟩
  | stopped f => rw [hstep] at h; cases h
  | refused r => rw [hstep] at h; cases h

theorem processLoop_twin (htwin : Twin strict s t) (hlive : Live s) (h : processLoop turns flush s = .next u) :
    ∃ v, processLoop turns flush t = .next v ∧ EndTwin strict u v := by
  induction turns generalizing s t with
  | zero => cases h
  | succ turns ih =>
    have hdrained := htwin.drain
    obtain ⟨herr, hstage, hosb, hfin⟩ := cut_same hdrained.cut
    have hanswer : ∀ result, EndTwin strict { drain s with result := result } { drain t with result := result } := by
      intro result
      obtain ⟨⟨p, hp, hbridge⟩, hin, hout⟩ := hdrained
      rw [hp] at hin hout ⊢
      exact ⟨⟨⟨{ p with result := result }, rfl, hbridge⟩, hin, hout⟩, rfl⟩
    have hlive' : Live (drain t) := ⟨herr.trans hlive.drain.1, hstage ▸ hlive.drain.2⟩
    rw [processLoop_succ] at h ⊢
    rw [hosb, hfin]
    split at h
    · next hfull => cases h; exact ⟨_, if_pos hfull, hanswer _⟩
    · next hempty =>
      rw [if_neg hempty]
      split at h
      · next hdone => cases h; exact ⟨_, if_pos hdone, hanswer _⟩
      · next hopen =>
        rw [if_neg hopen]
        exact afterStep_twin (hdrained.tracks (by simpa using hopen)) hdrained.inCap hdrained.outCap hlive.drain hlive'
          (fun m m' hm hmlive => ih hm hmlive) h

theorem answers_twin (htwin : Twin strict s t) (hlive : Live s) (h : Answers flush s u) :
    ∃ v, Answers flush t v ∧ EndTwin strict u v := by
  obtain ⟨turns, hloop⟩ := h
  obtain ⟨v, hv, hend⟩ := processLoop_twin htwin hlive hloop
  exact ⟨v, ⟨turns, hv⟩, hend⟩

/-! ## A cut output view -/

/-- A loop that answers anything but ERROR after a micro-step has gone on from it, or stalled on input. -/
theorem cont_or_stall_of_answer {result : Result} (hlive : Live s) (hresult : result ≠ .error)
    (h : afterStep turns flush (microStep flush s) = .next t) (ht : t.result = result) :
    (∃ m, microStep flush s = .cont m ∧ Live m ∧ processLoop turns flush m = .next t) ∨
      ∃ m, microStep flush s = .stallInput m ∧ t = { m with result := .stallIn } := by
  have hend := microStep_live flush hlive
  cases hstep : microStep flush s with
  | cont m => rw [hstep] at h hend; exact .inl ⟨m, rfl, hend, h⟩
  | stallInput m => rw [hstep] at h; cases h; exact .inr ⟨m, rfl, rfl⟩
  | raised m =>
    rw [hstep] at h hend
    cases h
    exact absurd (ht.symm.trans hend) hresult
  | stopped f => rw [hstep] at h; cases h
  | refused r => rw [hstep] at h; cases h

theorem twin_of_recap (hcut : Cut strict c w) (hin : w.inCap = c.inCap) : Twin strict { c with outCap := w.outCap } w := by
  obtain ⟨p, rfl, hbridge⟩ := hcut
  exact ⟨⟨p, rfl, hbridge⟩, hin, rfl⟩

/-- What the first of two PROCESSes left staged, the second drains into the whole view: both runs end in one state. -/
theorem answers_after_outStall (hcut : Cut True c w) (hin : w.inCap = c.inCap) (hout : c.outCap.toNat ≤ w.outCap.toNat)
    (hlive : Live c) :
    ∃ u, Answers flush w u ∧ Answers flush { drain c with result := .stallOut, outCap := w.outCap } u := by
  have hwhole := (twin_of_recap hcut hin).drain
  have hlive' : Live (drain { c with outCap := w.outCap }) := Live.drain (s := { c with outCap := w.outCap }) hlive
  have hresumed : Twin True { drain c with outCap := w.outCap } { drain c with result := .stallOut, outCap := w.outCap } :=
    ⟨.of_port ⟨(drain c).inCap, w.outCap, (drain c).scr, .stallOut⟩ _ rfl, rfl, rfl⟩
  have hresumed := hresumed.drain
  rw [drain_recap hout] at hresumed
  obtain ⟨x, hx⟩ := answers_exists flush (drain { c with outCap := w.outCap })
  obtain ⟨y, hy, hxy⟩ := answers_twin hwhole hlive' hx
  obtain ⟨z, hz, hxz⟩ := answers_twin hresumed hlive' hx
  rw [hxy.eq] at hy
  rw [hxz.eq] at hz
  exact ⟨x, answers_drain.mp hy, answers_drain.mp hz⟩

/-- What fits the cut view fits the whole one: Drain leaves the two runs where it left them. -/
theorem drained_of_outCut (hcut : Cut strict c w) (hin : w.inCap = c.inCap) (hout : c.outCap.toNat ≤ w.outCap.toNat)
    (hempty : (drain c).osb = []) :
    Cut strict (drain c) (drain w) ∧ (drain w).inCap = (drain c).inCap ∧ (drain c).outCap = c.outCap ∧
      (drain w).outCap = w.outCap := by
  have hwhole := (twin_of_recap hcut hin).drain
  rw [← drain_recap hout, drain_of_empty (s := { drain c with outCap := w.outCap }) hempty] at hwhole
  obtain ⟨⟨p, hp, hbridge⟩, hin', -⟩ := hwhole
  obtain ⟨-, -, -, hcout⟩ := drain_kept c
  obtain ⟨-, -, -, hwout⟩ := drain_kept w
  exact ⟨⟨p, hp, hbridge⟩, hin', hcout, hwout⟩

theorem processLoop_outCut (hcut : Cut True c w) (hin : w.inCap = c.inCap) (hout : c.outCap.toNat ≤ w.outCap.toNat)
    (hlive : Live c) (h : processLoop turns flush c = .next t) (hresult : t.result = .stallOut) :
    ∃ u, Answers flush w u ∧ Answers flush { t with outCap := w.outCap } u := by
  induction turns generalizing c w with
  | zero => cases h
  | succ turns ih =>
    rw [processLoop_succ] at h
    split at h
    · cases h
      exact answers_after_outStall hcut hin hout hlive
    · next hempty =>
      rw [not_not] at hempty
      split at h
      · cases h; cases hresult
      · next hopen =>
        have hfin : (drain c).fin = false := by simpa using hopen
        obtain ⟨hdrained, hdin, hdout, hdout'⟩ := drained_of_outCut hcut hin hout hempty
        obtain ⟨-, -, hosb', hfin'⟩ := cut_same hdrained
        have htracks : Tracks True flush (drain c) (drain w) :=
          tracks_of_reads hdrained.samePoint (fun _ => hdrained) (hdrained.readsAlike hdin) hfin
        obtain ⟨m, hstep, hmlive, hloop⟩ | ⟨m, -, rfl⟩ := cont_or_stall_of_answer hlive.drain (by simp) h hresult
        · have hframe := microStep_frame flush (drain c)
          have hframe' := microStep_frame flush (drain w)
          rw [Tracks, hstep] at htracks
          obtain ⟨m', hstep', hcut'⟩ := htracks
          rw [hstep] at hframe
          rw [hstep'] at hframe'
          have hmout : m'.outCap = w.outCap := hframe'.host.outCap.trans hdout'
          obtain ⟨u, hw, hr⟩ := ih hcut' ((hframe'.host.inCap.trans hdin).trans hframe.host.inCap.symm)
            (by rw [hframe.host.outCap, hmout]; exact hdout ▸ hout) hmlive hloop
          exact ⟨u, answers_of_cont (hosb'.trans hempty) (hfin'.trans hfin) hstep' hw, hmout ▸ hr⟩
        · cases hresult

/-! ## A cut input view -/

/-- R200 (a): no read takes more than a unit. -/
theorem nextRead_le (h : s.SessionInv) : s.nextRead ≤ 4 := by
  have hchunk : s.chunkContext.length ≤ 4 := by rcases chunkContext_cases s with h | h <;> rw [h] <;> decide
  have htail : s.role = .decode → s.stage = .blocks → s.ks = .readTail → s.t ≤ 4 := fun hrole hstage hks => by
    have hmode : s.mode = .chameleon := by simpa [hrole, hks] using h.point hstage
    obtain ⟨-, -, ht, -⟩ := h.decoderGroup hrole hstage hmode (by simp [hks]) (by simp [hks])
    exact ht.le
  unfold State.nextRead
  split
  case h_10 hrole hstage hks => exact htail hrole hstage hks
  all_goals try split
  all_goals omega

/-- A read that a cut view left short, taken up again with the whole view: the bytes staged from the cut view are the
first that the whole view gives. -/
theorem tracks_after_inStall (hcut : Cut False c w) (hin : c.inCap.toNat ≤ w.inCap.toNat) (hinv : LoopInv c)
    (hfin : c.fin = false) (hread : readUnit c.nextRead c = .insufficient t) (hstall : microStep false c = .stallInput t) :
    Tracks False flush { t with result := .stallIn, inCap := w.inCap } w := by
  have hquiet := not_quiet_of_stall hread hstall
  obtain ⟨hshort, hstaged, ht⟩ := readUnit_eq_insufficient hread
  have hstagedCut := hcut.stageBytes c.inAvail
  rw [← hstaged] at hstagedCut
  obtain ⟨scr, hw⟩ := stageBytes_state c.inAvail w
  have hroom : c.inAvail ≤ w.inAvail ∧ w.k = c.k := by
    obtain ⟨p, rfl, -⟩ := hcut
    exact ⟨Nat.sub_le_sub_right hin _, rfl⟩
  obtain ⟨p, hp, hbridge⟩ := hstagedCut
  have hresumed : Cut False { t with result := .stallIn, inCap := w.inCap } (stageBytes c.inAvail w) := ⟨p, hp, hbridge⟩
  have hreads : ReadsAlike False c.nextRead { t with result := .stallIn, inCap := w.inCap } w :=
    (hresumed.readsAlike (by rw [hw])).trans
      (readsAlike_of_staged hroom.1 (nextRead_le hinv.session) (hroom.2 ▸ hshort))
  refine tracks_of_reads ?point (fun h => absurd ?quiet hquiet) ?reads ?fin
  case point =>
    refine ⟨{ p with inCap := w.inCap, outCap := w.outCap, scr := w.scr, result := w.result }, w.inPos, w.k, w.totalRead, ?_⟩
    have hback := congrArg (fun x : State => ({ x with
      inCap := w.inCap, outCap := w.outCap, scr := w.scr, result := w.result, inPos := w.inPos, k := w.k
      totalRead := w.totalRead } : State)) hp
    rw [hw] at hback
    exact hback
  case quiet => rw [ht] at h; exact h
  case reads =>
    have hnext : State.nextRead { t with result := .stallIn, inCap := w.inCap } = c.nextRead := by rw [ht]; rfl
    rwa [hnext]
  case fin => rw [ht]; exact hfin

theorem answers_after_inStall (flush : Bool) (hcut : Cut False c w) (hout : w.outCap = c.outCap)
    (hin : c.inCap.toNat ≤ w.inCap.toNat) (hinv : LoopInv c) (herr : c.err = .none) (hosb : c.osb = [])
    (hfin : c.fin = false) (hread : readUnit c.nextRead c = .insufficient t) (hstall : microStep false c = .stallInput t) :
    ∃ y z, Answers flush w y ∧ Answers flush { t with result := .stallIn, inCap := w.inCap } z ∧ EndTwin False z y := by
  have htracks : Tracks False flush { t with result := .stallIn, inCap := w.inCap } w :=
    tracks_after_inStall hcut hin hinv hfin hread hstall
  obtain ⟨herr', hstage', hosb', hfin'⟩ := cut_same hcut
  have hlive : Live c := ⟨herr, hinv.unfinished hfin⟩
  obtain ⟨-, -, ht⟩ := readUnit_eq_insufficient hread
  have hr : State.osb { t with result := .stallIn, inCap := w.inCap } = [] ∧
      State.fin { t with result := .stallIn, inCap := w.inCap } = false ∧
      Live { t with result := .stallIn, inCap := w.inCap } ∧ t.outCap = c.outCap := by
    rw [ht]
    exact ⟨hosb, hfin, hlive, rfl⟩
  obtain ⟨hrosb, hrfin, hrlive, hrout⟩ := hr
  obtain ⟨z, turns, hloop⟩ := answers_exists flush { t with result := .stallIn, inCap := w.inCap }
  have hstep := processLoop_mono hloop (Nat.le_succ turns)
  rw [processLoop_of_open hrosb hrfin] at hstep
  obtain ⟨y, hy, hend⟩ := afterStep_twin htracks rfl (hout.trans hrout.symm) hrlive
    ⟨herr'.trans herr, hstage' ▸ hlive.2⟩ (fun m m' hm hmlive => processLoop_twin hm hmlive) hstep
  exact ⟨y, z, ⟨turns + 1, (processLoop_of_open (hosb'.trans hosb) (hfin'.trans hfin)).trans hy⟩, ⟨turns, hloop⟩, hend⟩

theorem processLoop_inCut (flush : Bool) (hcut : Cut False c w) (hout : w.outCap = c.outCap)
    (hin : c.inCap.toNat ≤ w.inCap.toNat) (hinv : LoopInv c) (herr : c.err = .none)
    (h : processLoop turns false c = .next t) (hresult : t.result = .stallIn) :
    ∃ y z, Answers flush w y ∧ Answers flush { t with inCap := w.inCap } z ∧ EndTwin False z y := by
  induction turns generalizing c w with
  | zero => cases h
  | succ turns ih =>
    have hdrained := hcut.drain hout
    obtain ⟨-, -, hcin, hcout⟩ := drain_kept c
    obtain ⟨-, -, hwin, hwout⟩ := drain_kept w
    have hdin : (drain c).inCap.toNat ≤ (drain w).inCap.toNat := by rwa [hcin, hwin]
    have hdout : (drain w).outCap = (drain c).outCap := by rw [hcout, hwout, hout]
    have hderr : (drain c).err = .none := (drain_err_stage c).1.trans herr
    obtain ⟨-, -, hosb', hfin'⟩ := cut_same hdrained
    rw [processLoop_succ] at h
    split at h
    · cases h; cases hresult
    · next hempty =>
      rw [not_not] at hempty
      split at h
      · cases h; cases hresult
      · next hopen =>
        have hfin : (drain c).fin = false := by simpa using hopen
        have havail : (drain c).inAvail ≤ (drain w).inAvail := by
          obtain ⟨p, hp, -⟩ := hdrained
          rw [hp] at hdin ⊢
          exact Nat.sub_le_sub_right hdin _
        have halike := meets_and (microStep_alike (fs := false) (ft := flush) (s := drain c) (t := drain w)
          ⟨hdrained.samePoint, fun _ => hdrained, fun _ _ hread => hdrained.readUnit_ok havail hread, fun _ _ => nofun⟩ hfin)
          (microStep_inv false hinv.drain hderr hempty hfin)
        obtain ⟨m, hstep, hmlive, hloop⟩ | ⟨m, hstep, rfl⟩ :=
          cont_or_stall_of_answer ⟨hderr, hinv.drain.unfinished hfin⟩ (by simp) h hresult
        · have hframe := microStep_frame false (drain c)
          have hframe' := microStep_frame flush (drain w)
          rw [hstep] at halike hframe
          obtain ⟨⟨m', hstep', hcut'⟩, hminv⟩ := halike
          rw [hstep'] at hframe'
          have hmin : m'.inCap = w.inCap := hframe'.host.inCap.trans hwin
          obtain ⟨y, z, hy, hz, hend⟩ := ih hcut'
            ((hframe'.host.outCap.trans hdout).trans hframe.host.outCap.symm)
            (by rw [hframe.host.inCap, hframe'.host.inCap]; exact hdin) hminv hmlive.1 hloop
          exact ⟨y, z, answers_of_cont (hosb'.trans hempty) (hfin'.trans hfin) hstep' hy, hmin ▸ hz, hend⟩
        · rw [hstep] at halike
          obtain ⟨⟨-, hread, -⟩, -⟩ := halike
          obtain ⟨y, z, hy, hz, hend⟩ :=
            answers_after_inStall flush hdrained hdout hdin hinv.drain hderr hempty hfin hread hstep
          exact ⟨y, z, answers_drain.mp hy, hwin ▸ hz, hend⟩

/-! ## The bytes moved and the views, over two PROCESSes -/

/-- A part of two views that are apart: as many bytes or fewer, from the same addresses on or later ones. -/
theorem viewsOverlap_of_part {a b : Nat} (h : s.viewsOverlap = false) (hinBase : t.inBase = s.inBase)
    (houtBase : t.outBase = s.outBase) (hinPos : t.inPos = s.inPos + BitVec.ofNat 32 a)
    (houtPos : t.outPos = s.outPos + BitVec.ofNat 32 b) (hin : a + t.inAvail ≤ s.inAvail)
    (hout : b + t.outAvail ≤ s.outAvail) : t.viewsOverlap = false := by
  refine Bool.eq_false_of_not_eq_true fun htrue => ?_
  obtain ⟨p, q, hp, hq, haddr⟩ := (viewsOverlap_iff t).mp htrue
  rw [hinBase, houtBase, hinPos, houtPos, BitVec.add_assoc, BitVec.add_assoc, ← BitVec.ofNat_add, ← BitVec.ofNat_add]
    at haddr
  exact Bool.false_ne_true (h.symm.trans ((viewsOverlap_iff s).mpr ⟨a + p, b + q, by omega, by omega, haddr⟩))

/-- What a PROCESS over part of the views did, said of the whole views it is then given back. -/
theorem frame_of_part {inCap outCap : Word} (h : Frame { s with inCap := inCap, outCap := outCap } t)
    (hin : avail s.inPos inCap ≤ s.inAvail) (hout : avail s.outPos outCap ≤ s.outAvail) :
    Frame s { t with inCap := s.inCap, outCap := s.outCap } where
  host := congrArg (fun x : State => ({ x with inCap := s.inCap, outCap := s.outCap } : State)) h.host
  encoder := h.encoder
  decoder := h.decoder
  moved := by
    obtain ⟨a, b, hmoved⟩ := h.moved
    exact ⟨a, b, {
      inRoom := hmoved.inRoom.trans hin
      outRoom := hmoved.outRoom.trans hout
      inPos := hmoved.inPos
      totalRead := hmoved.totalRead
      outPos := hmoved.outPos
      totalWritten := hmoved.totalWritten
      memory := hmoved.memory }⟩

/-- The bytes of two PROCESSes are those of each. -/
theorem movedBytesBacked_trans (h₁ : Frame s t) (h₂ : Frame t u) :
    s.movedBytesBacked u = (s.movedBytesBacked t && t.movedBytesBacked u) := by
  obtain ⟨a, b, hm₁⟩ := h₁.moved
  obtain ⟨x, y, hm₂⟩ := h₂.moved
  have hm := hm₁.trans h₁.host.inCap h₁.host.outCap h₁.host.outBase hm₂
  rw [hm.movedBytesBacked_eq, hm₁.movedBytesBacked_eq, hm₂.movedBytesBacked_eq, viewBacked_add, viewBacked_add,
    viewBacked_congr h₁.host.memMap, viewBacked_congr h₁.host.memMap, h₁.host.inBase, h₁.host.outBase, hm₁.inPos,
    hm₁.outPos]
  ac_rfl

/-- The session the first of two PROCESSes leaves, given its whole views back, enters the loop again. -/
theorem entersLoop_of_frame (h : Frame s t) (henters : entersLoop s) (hlive : Live t) : entersLoop t := by
  obtain ⟨hactive, -, -, hviews⟩ := henters
  obtain ⟨a, b, hmoved⟩ := h.moved
  have hin := inAvail_of_inPos h.host.inCap hmoved.inPos hmoved.inRoom
  have hout := outAvail_of_outPos h.host.outCap hmoved.outPos hmoved.outRoom
  have hinRoom := hmoved.inRoom
  have houtRoom := hmoved.outRoom
  exact ⟨h.host.active.trans hactive, hlive.1, hlive.2, viewsOverlap_of_part hviews h.host.inBase h.host.outBase
    hmoved.inPos hmoved.outPos (by omega) (by omega)⟩

/-- The second of two PROCESSes is refused exactly where one over the whole views is. -/
theorem onBackedMemory_resumed (hframe : Frame s t) (hresumed : Answers flush t u) (hbacked : s.movedBytesBacked t = true) :
    t.movedBytesBacked u = s.movedBytesBacked u := by
  obtain ⟨turns, hloop⟩ := hresumed
  rw [movedBytesBacked_trans hframe (processLoop_frame hloop), hbacked, Bool.true_and]

/-- A PROCESS over part of the views that stalls: what it hands on to one over the whole views. -/
theorem stalled_part {inCap outCap : Word} (henters : entersLoop s)
    (hin : inCap.toNat ≤ s.inCap.toNat) (hout : outCap.toNat ≤ s.outCap.toNat)
    (hexec : exec (.process flush) { s with inCap := inCap, outCap := outCap } = .next t)
    (hresult : t.result ≠ .error) :
    processLoop (processTurns { s with inCap := inCap, outCap := outCap }) flush
        { s with inCap := inCap, outCap := outCap } = .next t ∧
      entersLoop { t with inCap := s.inCap, outCap := s.outCap } ∧
      ∀ again u, Answers again { t with inCap := s.inCap, outCap := s.outCap } u →
        State.movedBytesBacked { t with inCap := s.inCap, outCap := s.outCap } u = s.movedBytesBacked u := by
  obtain ⟨err, rfl⟩ | ⟨⟨-, herr, hstage, -⟩, hloop, hbacked⟩ := exec_process_cases hexec
  · exact absurd rfl hresult
  have hframe : Frame s { t with inCap := s.inCap, outCap := s.outCap } :=
    frame_of_part (processLoop_frame hloop) (Nat.sub_le_sub_right hin _) (Nat.sub_le_sub_right hout _)
  obtain ⟨hanswer, -, hstage'⟩ := processLoop_answer herr hstage hloop
  have herr' : t.err = .none := by
    cases hanswer with
    | error result => exact absurd result hresult
    | _ => assumption
  exact ⟨hloop, entersLoop_of_frame hframe henters ⟨herr', hstage'⟩, fun _ u hu =>
    onBackedMemory_resumed hframe hu hbacked⟩

/-! ## PROCESS over the whole view and over its parts -/

/-- Settles O33: the first run's loop stalls where the second's drain goes on, and the bytes both moved are the whole
run's. -/
theorem outputViewMayBeCutAnywhere : Obligations.OutputViewMayBeCutAnywhere := by
  unfold Obligations.OutputViewMayBeCutAnywhere
  intro flush s t mid henters _ hmid hexec hresult
  obtain ⟨hloop, hresumes, hbacked⟩ := stalled_part (inCap := s.inCap) henters le_rfl hmid hexec (by simp [hresult])
  have hcut : Cut True { s with outCap := mid } s := .of_port ⟨s.inCap, s.outCap, s.scr, s.result⟩ _ rfl
  obtain ⟨u, hwhole, hresumed⟩ := processLoop_outCut hcut rfl hmid ⟨henters.2.1, henters.2.2.1⟩ hloop hresult
  have htin : t.inCap = s.inCap := (processLoop_frame hloop).host.inCap
  have hr : { t with inCap := s.inCap, outCap := s.outCap } = { t with outCap := s.outCap } := by rw [← htin]
  rw [hr] at hresumes hbacked
  rw [exec_process_of_answers hresumes hresumed, exec_process_of_answers henters hwhole, onBackedMemory, onBackedMemory,
    hbacked flush u hresumed]

/-- All that two whole runs differ in is their dead scratch bytes. -/
theorem EndTwin.sameButDeadScratch (h : EndTwin False s t) : s.sameButDeadScratch t := by
  obtain ⟨⟨⟨p, rfl, hbridge, -⟩, hin, hout⟩, hresult⟩ := h
  obtain ⟨inCap, outCap, scr, result⟩ := p
  obtain rfl : s.inCap = inCap := hin.symm
  obtain rfl : s.outCap = outCap := hout.symm
  obtain rfl : s.result = result := hresult.symm
  exact ⟨rfl, hbridge⟩

theorem EndTwin.movedBytesBacked (h : EndTwin strict s t) (u : State) : u.movedBytesBacked t = u.movedBytesBacked s := by
  obtain ⟨⟨⟨p, rfl, -⟩, -, -⟩, -⟩ := h
  rfl

/-- Settles O34: the bytes the first run staged are the first of the read that the second takes up again. -/
theorem inputViewMayBeCutAnywhere : Obligations.InputViewMayBeCutAnywhere := by
  unfold Obligations.InputViewMayBeCutAnywhere
  intro flush s t mid hinv henters _ hmid hexec hresult
  obtain ⟨hloop, hresumes, hbacked⟩ := stalled_part (outCap := s.outCap) henters hmid le_rfl hexec (by simp [hresult])
  have hcut : Cut False { s with inCap := mid } s := .of_port ⟨s.inCap, s.outCap, s.scr, s.result⟩ _ rfl
  have hinv' : LoopInv { s with inCap := mid } := .of_inv (inv_of_host_update hinv hinv.memWf rfl) henters.1
  obtain ⟨u, v, hwhole, hresumed, hend⟩ := processLoop_inCut flush hcut rfl hmid hinv' henters.2.1 hloop hresult
  have htout : t.outCap = s.outCap := (processLoop_frame hloop).host.outCap
  have hr : { t with inCap := s.inCap, outCap := s.outCap } = { t with inCap := s.inCap } := by rw [← htout]
  rw [hr] at hresumes hbacked
  rw [exec_process_of_answers hresumes hresumed, exec_process_of_answers henters hwhole, onBackedMemory, onBackedMemory,
    hbacked flush v hresumed, hend.movedBytesBacked s]
  cases hmoved : s.movedBytesBacked v with
  | true => exact .inl ⟨u, v, rfl, rfl, hend.sameButDeadScratch⟩
  | false => exact .inr ⟨rfl, rfl⟩

end Sys2Proof.Proofs.Fragments
end
